-- ==== Sys2Proof/Word.lean ====
section
/-! DEFINITION. The two word types of the core (R10, R12): bytes of 8 bits and words of 16 bits, bit 0 the least
significant. Byte order, sign extension and every other helper stand in Machine/Bytes.lean. -/

namespace Sys2Proof

/-- A register, a memory cell or the stack pointer: 8 bits (R10). -/
abbrev Byte := BitVec 8

/-- An address or the program counter: 16 bits (R10). -/
abbrev Word := BitVec 16

end Sys2Proof
end

