-- ==== Sys2Proof/Machine/Bytes.lean ====
section
/-! DEFINITION. Byte order, zero extension and sign extension (R13, R51, R74). -/

namespace Sys2Proof.Machine

/-- `toWord(lo, hi) = hi * 256 + lo` (R51). -/
def toWord (lo hi : Byte) : Word := BitVec.ofNat 16 (hi.toNat * 256 + lo.toNat)

/-- The first byte of `toBytes(w)`: `w mod 256` (R51). -/
def loByte (w : Word) : Byte := BitVec.ofNat 8 (w.toNat % 256)

/-- The second byte of `toBytes(w)`: `(w div 256) mod 256` (R51). -/
def hiByte (w : Word) : Byte := BitVec.ofNat 8 (w.toNat / 256 % 256)

/-- `zext_16(b)`: the byte as a word, unchanged in value (R13). -/
def zext16 (b : Byte) : Word := BitVec.ofNat 16 b.toNat

/-- `sext_8(b)`: `b` below 128, else `b - 256`, as a signed integer (R74). -/
def sext8 (b : Byte) : Int := if b.toNat < 128 then b.toNat else (b.toNat : Int) - 256

end Sys2Proof.Machine
end

