-- ==== Sys2Proof/Config.lean ====
section
/-! DEFINITION. The free values of the model: what the two input collaborators answer. The core has no other open
parameter (R10, R11): its fixed parameters stand in Machine/Params.lean. -/

namespace Sys2Proof

/-- The answer to the `k`-th `RAND()` call (R8, R43; P_RAND of R11). A free value: it has no body, so every theorem
holds whatever the random source answers. Assumption log 1. -/
opaque Config.randAnswer : Nat → Byte

/-- The answer to the `k`-th `KEY()` call (R7, R44; P_KEY of R11). A free value: it has no body, so every theorem holds
whatever keys are pressed, and two reads need not agree. Assumption log 1. -/
opaque Config.keyAnswer : Nat → Byte

end Sys2Proof
end

