-- ==== Sys2Proof/Machine/Params.lean ====
section
/-! DEFINITION. The fixed implementation parameters of R10 and the address map of R41. -/

namespace Sys2Proof.Machine

/-- Where `LOAD` puts the program, and the program counter at reset (R10, R40, R143). -/
abbrev programOrigin : Word := 0x0600#16

/-- The longest byte string `LOAD` takes (R11, R40). -/
abbrev maxProgramLength : Nat := 0xFA00

/-- The stack pointer at reset (R10, R32). -/
abbrev resetStackPointer : Byte := 0xFF#8

/-- The first byte of the stack page (R10, R25). -/
abbrev stackBase : Word := 0x0100#16

/-- The address whose reads the random source answers (R10, R43). -/
abbrev randAddress : Word := 0x00FE#16

/-- The address whose reads the keyboard answers (R10, R44). -/
abbrev keyAddress : Word := 0x00FF#16

/-- The first byte of the framebuffer (R10, R41, R46). -/
abbrev framebufferFirst : Word := 0x0200#16

/-- The last byte of the framebuffer (R10, R41, R46). -/
abbrev framebufferLast : Word := 0x05FF#16

/-- The framebuffer's columns, and as many rows (R10, R46). -/
abbrev framebufferSide : Nat := 32

/-- The colours of a pixel (R10, R46). -/
abbrev colourCount : Nat := 16

/-- What a memory cell that was never written holds (R26, R33). -/
abbrev unwrittenByte : Byte := 0x00#8

/-- How many addresses there are; every one is legal (R10, R26, R36). -/
abbrev addressCount : Nat := 0x10000

end Sys2Proof.Machine
end

