-- ==== Sys2Proof/Machine/State.lean ====
section
/-! DEFINITION. The state of the core (10_state.md), its value after reset (R32, R142), and the reasons a transaction
can end otherwise. -/

namespace Sys2Proof.Machine

/-- The base store as data: the cells that do not hold `unwrittenByte`, by rising address (R26). The form is
`Memory.wf` of Machine/Memory.lean. -/
abbrev Memory := List Host.Cell

/-- Why the core is Halted (R27, R129). -/
inductive HaltReason where
  /-- BRK halted the core: normal termination (R126). -/
  | stop
  /-- The byte `op`, fetched at address `addr`, has no descriptor (R128). -/
  | decodeError (op : Byte) (addr : Word)
deriving DecidableEq, Repr

/-- The execution engine's two states (R27). -/
inductive RunState where
  | running
  | halted (reason : HaltReason)
deriving DecidableEq, Repr

/-- A call the core makes to a collaborator (R7, R8). -/
inductive Call where
  /-- `RAND()` was called and answered `answer` (R43). -/
  | rand (answer : Byte)
  /-- `KEY()` was called and answered `answer` (R44). -/
  | key (answer : Byte)
  /-- `FB_UPDATE(x, y, colour)` was issued (R46). -/
  | fbUpdate (x y colour : Nat)
deriving DecidableEq, Repr

/-- Everything the core holds (R31), and below it the model's own record of its interfaces. -/
@[ext]
structure State where
  /-- The accumulator A (R15). -/
  a : Byte
  /-- The index register X (R15). -/
  x : Byte
  /-- The index register Y (R15). -/
  y : Byte
  /-- The Carry flag (R18, R19). -/
  c : Bool
  /-- The Negative flag (R17, R18). -/
  n : Bool
  /-- The Zero flag (R17, R18). -/
  z : Bool
  /-- The program counter: the address of the next byte to fetch (R23). -/
  pc : Word
  /-- The stack pointer: an offset into the stack page (R25). -/
  sp : Byte
  /-- The base store (R26). -/
  mem : Memory
  /-- Running, or Halted with a reason (R27). -/
  run : RunState
  /-- The model's own: whether a `STEP` has run, since `LOAD` is taken only before the first one (R40). Log 4. -/
  started : Bool
  /-- The model's own: how many `RAND()` calls have been made, the index of the next free answer. Log 2. -/
  randCalls : Nat
  /-- The model's own: how many `KEY()` calls have been made, the index of the next free answer. Log 2. -/
  keyCalls : Nat
  /-- The model's own: the collaborator calls made so far, the latest FIRST (R7, R59, R89). Log 3. -/
  calls : List Call
deriving DecidableEq, Repr

/-- What stops a step with a fault: nothing does, so the type has no constructor (R36, R129: "Nothing else faults").
BRK and a decode error are NEXT states whose `run` is Halted (R126, R128). Log 5. -/
inductive Fault where
deriving DecidableEq, Repr

/-- What is turned away, with the state as it was. -/
inductive Refusal where
  /-- Raised by an arm of `exec` that has no meaning yet, of which there is none. Safe. -/
  | notModelled (mnemonic : String)
  /-- Raised by `loadProgram` for a byte string of more than `maxProgramLength` bytes (R40; 93 I7). Safe: the spec refuses it.
  The name is the model's (log 13). -/
  | programTooLong (length : Nat)
  /-- Raised by `loadProgram` once a `STEP` has run (R40, R141; 93 I8). Safe: the spec refuses it. The name is the
  model's (log 13). -/
  | loadAfterFirstStep
deriving DecidableEq, Repr

/-- The state reset creates (R32, R142), before any `LOAD`: registers and flags zero, `sp` 0xFF, `pc` 0x0600, every
cell 0x00, Running. The model's own fields start at "nothing has happened yet" (logs 2, 3 and 4). -/
def State.reset : State where
  a := 0x00#8
  x := 0x00#8
  y := 0x00#8
  c := false
  n := false
  z := false
  pc := programOrigin
  sp := resetStackPointer
  mem := []
  run := .running
  started := false
  randCalls := 0
  keyCalls := 0
  calls := []

end Sys2Proof.Machine
end

