-- ==== Sys2Proof/Machine/Memory.lean ====
section
/-! DEFINITION. The base store's three operations on plain data: reading a cell, writing a cell, and the canonical form
that every write keeps (R26, R33, R34). -/

namespace Sys2Proof.Machine

/-- The byte at address `a`; an address that is not listed holds `unwrittenByte` (R33). -/
def Memory.read (a : Nat) : Memory → Byte
  | [] => unwrittenByte
  | (k, v) :: m => if k = a then v else Memory.read a m

/-- The cells other than the one at `a`. -/
def Memory.erase (a : Nat) : Memory → Memory
  | [] => []
  | (k, v) :: m => if k = a then Memory.erase a m else (k, v) :: Memory.erase a m

/-- The cells with one for `a` put before the first higher address. -/
def Memory.insert (a : Nat) (v : Byte) : Memory → Memory
  | [] => [(a, v)]
  | (k, w) :: m => if a < k then (a, v) :: (k, w) :: m else (k, w) :: Memory.insert a v m

/-- `mem[a] <- v`, every other cell kept (R34). Writing `unwrittenByte` removes the entry, so equal memories are equal
lists. -/
def Memory.write (a : Nat) (v : Byte) (m : Memory) : Memory :=
  if v = unwrittenByte then Memory.erase a m else Memory.insert a v (Memory.erase a m)

/-- The canonical form from address `lo` on: rising addresses, all legal, none listed with `unwrittenByte`. -/
def Memory.wfFrom (lo : Nat) : Memory → Bool
  | [] => true
  | (k, v) :: m => decide (lo ≤ k) && decide (k < addressCount) && (v != unwrittenByte) && Memory.wfFrom (k + 1) m

/-- The canonical form: strictly rising legal addresses, no cell listed with what an unlisted one holds (R26). -/
def Memory.wf (m : Memory) : Bool := Memory.wfFrom 0 m

end Sys2Proof.Machine
end

