-- ==== Sys2Proof/Machine/Ops.lean ====
section
/-! DEFINITION. The named operations over registers, memory, program counter and stack (20_memory.md), the memory-mapped
I/O controller, the host's collaborator calls, and the two ways the core halts. -/

namespace Sys2Proof.Machine

/-- A step's outcome. -/
abbrev Result := Host.Outcome State Fault Refusal

/-- The general registers (R15). -/
inductive Reg where
  | a
  | x
  | y
deriving DecidableEq, Repr

/-! ## One update per piece of state -/

/-- The register's value, `x[r]` (R13, R15). -/
def State.reg (r : Reg) (s : State) : Byte :=
  match r with
  | .a => s.a
  | .x => s.x
  | .y => s.y

/-- The register's cell written raw; `setReg` of Machine/Flags.lean is the only caller an instruction has (R16). -/
def State.putReg (r : Reg) (v : Byte) (s : State) : State :=
  match r with
  | .a => { s with a := v }
  | .x => { s with x := v }
  | .y => { s with y := v }

/-- The Negative and Zero flags written together, as `NZ` and BIT do (R17, R119). -/
def State.putNZ (n z : Bool) (s : State) : State := { s with n := n, z := z }

/-- The Carry flag written (R19). -/
def State.putC (c : Bool) (s : State) : State := { s with c := c }

/-- `pc <- target` (R24). -/
def State.putPc (target : Word) (s : State) : State := { s with pc := target }

/-- The stack pointer written (R25). -/
def State.putSp (sp : Byte) (s : State) : State := { s with sp := sp }

/-- The base store written (R26). -/
def State.putMem (m : Memory) (s : State) : State := { s with mem := m }

/-- The execution engine's state written (R27). -/
def State.putRun (r : RunState) (s : State) : State := { s with run := r }

/-- A `STEP` has run (R40). -/
def State.markStarted (s : State) : State := { s with started := true }

/-- One more `RAND()` call, recorded with its answer (R8, R43). -/
def State.callRand (s : State) : State :=
  { s with randCalls := s.randCalls + 1, calls := .rand (Config.randAnswer s.randCalls) :: s.calls }

/-- One more `KEY()` call, recorded with its answer (R7, R44). -/
def State.callKey (s : State) : State :=
  { s with keyCalls := s.keyCalls + 1, calls := .key (Config.keyAnswer s.keyCalls) :: s.calls }

/-- One more `FB_UPDATE(x, y, colour)` call, recorded (R7, R46). -/
def State.callFbUpdate (x y colour : Nat) (s : State) : State :=
  { s with calls := .fbUpdate x y colour :: s.calls }

/-! ## The base store and the memory-mapped I/O controller -/

/-- `BaseRead(a)`: the plain store, no side effect (R33). -/
def baseRead (a : Word) (s : State) : Byte := Memory.read a.toNat s.mem

/-- `BaseWrite(a, v)`: the plain store, no side effect; `v` is already a byte (R34). -/
def baseWrite (a : Word) (v : Byte) (s : State) : State := s.putMem (Memory.write a.toNat v s.mem)

/-- `MemRead(a, 1)`: the read every instruction, fetch, pointer read and pull uses (R42). 0x00FE is answered by `RAND()`
(R43), 0x00FF by `KEY()` (R44), every other address by the base store. -/
def memRead (a : Word) (s : State) : Byte × State :=
  if a = randAddress then (Config.randAnswer s.randCalls, s.callRand)
  else if a = keyAddress then (Config.keyAnswer s.keyCalls, s.callKey)
  else (baseRead a s, s)

/-- The framebuffer's addresses, 0x0200..0x05FF (R41, R46). -/
def inFramebuffer (a : Word) : Bool :=
  decide (framebufferFirst.toNat ≤ a.toNat) && decide (a.toNat ≤ framebufferLast.toNat)

/-- The column of the pixel at `a` (R46). -/
def pixelColumn (a : Word) : Nat := a.toNat % framebufferSide

/-- The row of the pixel at `a` (R46). -/
def pixelRow (a : Word) : Nat := (a.toNat - framebufferFirst.toNat) / framebufferSide

/-- The colour index a written byte stands for (R46). -/
def pixelColour (v : Byte) : Nat := v.toNat % colourCount

/-- `MemWrite(a, 1, v)`: the write every instruction and push uses. The store is written first, then a write into the
framebuffer issues one `FB_UPDATE` (R45, R46). -/
def memWrite (a : Word) (v : Byte) (s : State) : State :=
  if inFramebuffer a then
    (baseWrite a v s).callFbUpdate (pixelColumn a) (pixelRow a) (pixelColour v)
  else baseWrite a v s

/-! ## Fetch, jump and branch -/

/-- `FetchNext()`: the byte at `pc`, read through the decorator, and `pc` one further, wrapping (R37). -/
def fetchNext (s : State) : Byte × State :=
  ((memRead s.pc s).1, (memRead s.pc s).2.putPc (s.pc + 1#16))

/-- `k` bytes fetched in a row (R37). -/
def fetchBytes : Nat → State → List Byte × State
  | 0, s => ([], s)
  | k + 1, s =>
    ((fetchNext s).1 :: (fetchBytes k (fetchNext s).2).1, (fetchBytes k (fetchNext s).2).2)

/-- `jump(addr)` (R38). -/
def jump (target : Word) (s : State) : State := s.putPc target

/-- `branch(cond, addr)`: jumps iff `cond` holds, otherwise a no-op (R39). -/
def branch (cond : Bool) (target : Word) (s : State) : State := if cond then jump target s else s

/-! ## The stack and subroutine linkage -/

/-- The address of the stack byte that `sp` names: `0x0100 + sp` (R25). -/
def stackAddress (sp : Byte) : Word := stackBase + zext16 sp

/-- `Push(v)`: writes at `0x0100 + sp`, then decrements `sp` with 8-bit wrap (R48). -/
def push (v : Byte) (s : State) : State := (memWrite (stackAddress s.sp) v s).putSp (s.sp - 1#8)

/-- `Pull()`: increments `sp` with 8-bit wrap, then reads at `0x0100 + sp` (R49). -/
def pull (s : State) : Byte × State := memRead (stackAddress (s.sp + 1#8)) (s.putSp (s.sp + 1#8))

/-- `callSubroutine(addr)`: pushes the low byte of `pc`, then its high byte, then jumps (R52). -/
def callSubroutine (target : Word) (s : State) : State :=
  jump target (push (hiByte s.pc) (push (loByte s.pc) s))

/-- `returnFromSubroutine()`: pulls the high byte, then the low byte, and jumps there; nothing is added (R53). -/
def returnFromSubroutine (s : State) : State :=
  jump (toWord (pull (pull s).2).1 (pull s).1) (pull (pull s).2).2

/-! ## Halting: the core's only two events (R129). It has no trap entry and no trap return (R132, R133). -/

/-- `halt Stop` (R126). -/
def haltStop (s : State) : State := s.putRun (.halted .stop)

/-- `raise DecodeError(op, addr)` (R128). -/
def raiseDecodeError (op : Byte) (addr : Word) (s : State) : State := s.putRun (.halted (.decodeError op addr))

end Sys2Proof.Machine
end

