-- ==== Sys2Proof/Machine/Flags.lean ====
section
/-! DEFINITION. Every flag computation of the spec: `NZ` and the register write through it (R16, R17), the carry
operations (R19), BIT's two flags (R119), and the exact integer results whose carry is taken (R115 to R123). -/

namespace Sys2Proof.Machine

/-- A flag as the integer the arithmetic rules add (R18). -/
def flagInt (b : Bool) : Int := if b then 1 else 0

/-- `n mod 256`, for any integer (R16, R17). -/
def truncate8 (n : Int) : Byte := BitVec.ofInt 8 n

/-- `NZ(n)`: masks to 8 bits, sets Z and N from the masked value and returns it; C is not changed (R17). -/
def nz (n : Int) (s : State) : Byte × State :=
  (truncate8 n, s.putNZ (truncate8 n).msb (truncate8 n == 0#8))

/-- `SetReg(r, n)`: `x[r] <- NZ(n)`, the only way a register is written (R16). -/
def setReg (r : Reg) (n : Int) (s : State) : State := (nz n s).2.putReg r (nz n s).1

/-- `SetCarry()` (R19). -/
def setCarry (s : State) : State := s.putC true

/-- `ClearCarry()` (R19). -/
def clearCarry (s : State) : State := s.putC false

/-- `SetCarryIf(b)` (R19). -/
def setCarryIf (b : Bool) (s : State) : State := s.putC b

/-- The flags of a comparison of register value `r` with `m`: C from the unsigned order, N and Z from the discarded
difference (45_compare.md, R115 to R117). -/
def compareFlags (r m : Byte) (s : State) : State :=
  (nz ((r.toNat : Int) - m.toNat) (setCarryIf (decide (m.toNat ≤ r.toNat)) s)).2

/-- BIT's flags: Z from `A & m`, N from bit 7 of `m` itself (R119). -/
def bitTestFlags (a m : Byte) (s : State) : State := s.putNZ m.msb ((a &&& m) == 0#8)

/-- ADC's exact sum `A + m + C` (R122). -/
def adcSum (a m : Byte) (c : Bool) : Int := (a.toNat : Int) + m.toNat + flagInt c

/-- SBC's exact difference `A - m - (1 - C)` (R123). -/
def sbcDifference (a m : Byte) (c : Bool) : Int := (a.toNat : Int) - m.toNat - (1 - flagInt c)

/-- LSR's carry: bit 0 of the operand before the shift (R120). -/
def shiftCarry (v : Byte) : Bool := v.getLsbD 0

/-- LSR's result `v >> 1` (R120). -/
def shiftResult (v : Byte) : Int := (v.toNat / 2 : Nat)

end Sys2Proof.Machine
end

