-- ==== Sys2Proof/Syntax.lean ====
section
/-! DEFINITION. The instruction set as syntax: the 37 mnemonics, the eight addressing modes with their operand bytes,
and one constructor of `Instr` per row of spec/opcode_table.json (R62, R66). -/

namespace Sys2Proof

/-- The 37 mnemonics of the descriptor table (R66), in its order. -/
inductive Mnemonic where
  | lda | ldx | ldy | sta | stx | sty | tax | tay | txa | tya
  | inc | dec | inx | iny | dex | dey
  | jmp | jsr | rts | bpl | bmi | bcc | bcs | bne | beq
  | cmp | cpx | cpy
  | and | bit | lsr
  | adc | sbc | clc | sec
  | nop | brk
deriving DecidableEq, Repr

/-- The eight addressing modes (R71). -/
inductive Mode where
  | implicit | relative | immediate | zeroPage | zeroPageX | absolute | indexedIndirect | indirectIndexed
deriving DecidableEq, Repr

/-- A mode together with the operand bytes it consumes (R65). -/
inductive Operand where
  /-- No operand byte (R73). -/
  | implicit
  /-- A two's-complement offset (R74, R75). -/
  | relative (offset : Byte)
  /-- The byte that stands at the effective address; the instruction reads it again from memory (R65, R76). -/
  | immediate (b : Byte)
  /-- A zero-page address (R77). -/
  | zeroPage (b : Byte)
  /-- A zero-page address, before X is added (R78). -/
  | zeroPageX (b : Byte)
  /-- An address, its low byte first in memory (R79). -/
  | absolute (addr : Word)
  /-- A zero-page pointer address, before X is added (R80). -/
  | indexedIndirect (b : Byte)
  /-- A zero-page pointer address (R81). -/
  | indirectIndexed (b : Byte)
deriving DecidableEq, Repr

/-- The mode tag of an operand (R71). -/
def Operand.mode : Operand → Mode
  | .implicit => .implicit
  | .relative _ => .relative
  | .immediate _ => .immediate
  | .zeroPage _ => .zeroPage
  | .zeroPageX _ => .zeroPageX
  | .absolute _ => .absolute
  | .indexedIndirect _ => .indexedIndirect
  | .indirectIndexed _ => .indirectIndexed

/-- What the descriptor table gives for an opcode byte: a (mnemonic, mode) pair (R66, R83). -/
structure Descriptor where
  mnemonic : Mnemonic
  mode : Mode
deriving DecidableEq, Repr

/-- The decoded instructions: one constructor per (mnemonic, mode) pair of R66, with its operand. -/
inductive Instr where
  /-- LDA #b, Immediate, opcode A9 (R90). -/
  | ldaImm (b : Byte)
  /-- LDA b, Zero Page, opcode A5 (R90). -/
  | ldaZp (b : Byte)
  /-- LDA b,X, Zero Page,X, opcode B5 (R90). -/
  | ldaZpX (b : Byte)
  /-- LDA addr, Absolute, opcode AD (R90). -/
  | ldaAbs (addr : Word)
  /-- LDA (b,X), (zp,X), opcode A1 (R90). -/
  | ldaIndX (b : Byte)
  /-- LDA (b),Y, (zp),Y, opcode B1 (R90). -/
  | ldaIndY (b : Byte)
  /-- LDX #b, Immediate, opcode A2 (R91). -/
  | ldxImm (b : Byte)
  /-- LDX b, Zero Page, opcode A6 (R91). -/
  | ldxZp (b : Byte)
  /-- LDX addr, Absolute, opcode AE (R91). -/
  | ldxAbs (addr : Word)
  /-- LDY #b, Immediate, opcode A0 (R92). -/
  | ldyImm (b : Byte)
  /-- LDY b, Zero Page, opcode A4 (R92). -/
  | ldyZp (b : Byte)
  /-- LDY b,X, Zero Page,X, opcode B4 (R92). -/
  | ldyZpX (b : Byte)
  /-- LDY addr, Absolute, opcode AC (R92). -/
  | ldyAbs (addr : Word)
  /-- STA b, Zero Page, opcode 85 (R93). -/
  | staZp (b : Byte)
  /-- STA b,X, Zero Page,X, opcode 95 (R93). -/
  | staZpX (b : Byte)
  /-- STA addr, Absolute, opcode 8D (R93). -/
  | staAbs (addr : Word)
  /-- STA (b,X), (zp,X), opcode 81 (R93). -/
  | staIndX (b : Byte)
  /-- STA (b),Y, (zp),Y, opcode 91 (R93). -/
  | staIndY (b : Byte)
  /-- STX b, Zero Page, opcode 86 (R94). -/
  | stxZp (b : Byte)
  /-- STX addr, Absolute, opcode 8E (R94). -/
  | stxAbs (addr : Word)
  /-- STY b, Zero Page, opcode 84 (R95). -/
  | styZp (b : Byte)
  /-- STY b,X, Zero Page,X, opcode 94 (R95). -/
  | styZpX (b : Byte)
  /-- STY addr, Absolute, opcode 8C (R95). -/
  | styAbs (addr : Word)
  /-- TAX, Implicit, opcode AA (R96). -/
  | tax
  /-- TAY, Implicit, opcode A8 (R97). -/
  | tay
  /-- TXA, Implicit, opcode 8A (R98). -/
  | txa
  /-- TYA, Implicit, opcode 98 (R99). -/
  | tya
  /-- INC b, Zero Page, opcode E6 (R100). -/
  | incZp (b : Byte)
  /-- INC b,X, Zero Page,X, opcode F6 (R100). -/
  | incZpX (b : Byte)
  /-- INC addr, Absolute, opcode EE (R100). -/
  | incAbs (addr : Word)
  /-- DEC b, Zero Page, opcode C6 (R101). -/
  | decZp (b : Byte)
  /-- DEC b,X, Zero Page,X, opcode D6 (R101). -/
  | decZpX (b : Byte)
  /-- DEC addr, Absolute, opcode CE (R101). -/
  | decAbs (addr : Word)
  /-- INX, Implicit, opcode E8 (R102). -/
  | inx
  /-- INY, Implicit, opcode C8 (R103). -/
  | iny
  /-- DEX, Implicit, opcode CA (R104). -/
  | dex
  /-- DEY, Implicit, opcode 88 (R105). -/
  | dey
  /-- JMP addr, Absolute, opcode 4C (R106). -/
  | jmp (addr : Word)
  /-- JSR addr, Absolute, opcode 20 (R107). -/
  | jsr (addr : Word)
  /-- RTS, Implicit, opcode 60 (R108). -/
  | rts
  /-- BPL offset, Relative, opcode 10 (R109). -/
  | bpl (offset : Byte)
  /-- BMI offset, Relative, opcode 30 (R110). -/
  | bmi (offset : Byte)
  /-- BCC offset, Relative, opcode 90 (R111). -/
  | bcc (offset : Byte)
  /-- BCS offset, Relative, opcode B0 (R112). -/
  | bcs (offset : Byte)
  /-- BNE offset, Relative, opcode D0 (R113). -/
  | bne (offset : Byte)
  /-- BEQ offset, Relative, opcode F0 (R114). -/
  | beq (offset : Byte)
  /-- CMP #b, Immediate, opcode C9 (R115). -/
  | cmpImm (b : Byte)
  /-- CMP b, Zero Page, opcode C5 (R115). -/
  | cmpZp (b : Byte)
  /-- CMP b,X, Zero Page,X, opcode D5 (R115). -/
  | cmpZpX (b : Byte)
  /-- CMP addr, Absolute, opcode CD (R115). -/
  | cmpAbs (addr : Word)
  /-- CMP (b,X), (zp,X), opcode C1 (R115). -/
  | cmpIndX (b : Byte)
  /-- CMP (b),Y, (zp),Y, opcode D1 (R115). -/
  | cmpIndY (b : Byte)
  /-- CPX #b, Immediate, opcode E0 (R116). -/
  | cpxImm (b : Byte)
  /-- CPX b, Zero Page, opcode E4 (R116). -/
  | cpxZp (b : Byte)
  /-- CPX addr, Absolute, opcode EC (R116). -/
  | cpxAbs (addr : Word)
  /-- CPY #b, Immediate, opcode C0 (R117). -/
  | cpyImm (b : Byte)
  /-- CPY b, Zero Page, opcode C4 (R117). -/
  | cpyZp (b : Byte)
  /-- CPY addr, Absolute, opcode CC (R117). -/
  | cpyAbs (addr : Word)
  /-- AND #b, Immediate, opcode 29 (R118). -/
  | andImm (b : Byte)
  /-- AND b, Zero Page, opcode 25 (R118). -/
  | andZp (b : Byte)
  /-- AND b,X, Zero Page,X, opcode 35 (R118). -/
  | andZpX (b : Byte)
  /-- AND addr, Absolute, opcode 2D (R118). -/
  | andAbs (addr : Word)
  /-- AND (b,X), (zp,X), opcode 21 (R118). -/
  | andIndX (b : Byte)
  /-- AND (b),Y, (zp),Y, opcode 31 (R118). -/
  | andIndY (b : Byte)
  /-- BIT b, Zero Page, opcode 24 (R119). -/
  | bitZp (b : Byte)
  /-- BIT addr, Absolute, opcode 2C (R119). -/
  | bitAbs (addr : Word)
  /-- LSR, Implicit, opcode 4A (R120). -/
  | lsrA
  /-- LSR b, Zero Page, opcode 46 (R120). -/
  | lsrZp (b : Byte)
  /-- LSR b,X, Zero Page,X, opcode 56 (R120). -/
  | lsrZpX (b : Byte)
  /-- LSR addr, Absolute, opcode 4E (R120). -/
  | lsrAbs (addr : Word)
  /-- ADC #b, Immediate, opcode 69 (R122). -/
  | adcImm (b : Byte)
  /-- ADC b, Zero Page, opcode 65 (R122). -/
  | adcZp (b : Byte)
  /-- ADC b,X, Zero Page,X, opcode 75 (R122). -/
  | adcZpX (b : Byte)
  /-- ADC addr, Absolute, opcode 6D (R122). -/
  | adcAbs (addr : Word)
  /-- ADC (b,X), (zp,X), opcode 61 (R122). -/
  | adcIndX (b : Byte)
  /-- ADC (b),Y, (zp),Y, opcode 71 (R122). -/
  | adcIndY (b : Byte)
  /-- SBC #b, Immediate, opcode E9 (R123). -/
  | sbcImm (b : Byte)
  /-- SBC b, Zero Page, opcode E5 (R123). -/
  | sbcZp (b : Byte)
  /-- SBC b,X, Zero Page,X, opcode F5 (R123). -/
  | sbcZpX (b : Byte)
  /-- SBC addr, Absolute, opcode ED (R123). -/
  | sbcAbs (addr : Word)
  /-- SBC (b,X), (zp,X), opcode E1 (R123). -/
  | sbcIndX (b : Byte)
  /-- SBC (b),Y, (zp),Y, opcode F1 (R123). -/
  | sbcIndY (b : Byte)
  /-- CLC, Implicit, opcode 18 (R124). -/
  | clc
  /-- SEC, Implicit, opcode 38 (R125). -/
  | sec
  /-- NOP, Implicit, opcode EA (R127). -/
  | nop
  /-- BRK, Implicit, opcode 00 (R126). -/
  | brk
deriving DecidableEq, Repr

/-- The mnemonic of an instruction (R66). -/
def Instr.mnemonic : Instr → Mnemonic
  | .ldaImm _ => .lda
  | .ldaZp _ => .lda
  | .ldaZpX _ => .lda
  | .ldaAbs _ => .lda
  | .ldaIndX _ => .lda
  | .ldaIndY _ => .lda
  | .ldxImm _ => .ldx
  | .ldxZp _ => .ldx
  | .ldxAbs _ => .ldx
  | .ldyImm _ => .ldy
  | .ldyZp _ => .ldy
  | .ldyZpX _ => .ldy
  | .ldyAbs _ => .ldy
  | .staZp _ => .sta
  | .staZpX _ => .sta
  | .staAbs _ => .sta
  | .staIndX _ => .sta
  | .staIndY _ => .sta
  | .stxZp _ => .stx
  | .stxAbs _ => .stx
  | .styZp _ => .sty
  | .styZpX _ => .sty
  | .styAbs _ => .sty
  | .tax => .tax
  | .tay => .tay
  | .txa => .txa
  | .tya => .tya
  | .incZp _ => .inc
  | .incZpX _ => .inc
  | .incAbs _ => .inc
  | .decZp _ => .dec
  | .decZpX _ => .dec
  | .decAbs _ => .dec
  | .inx => .inx
  | .iny => .iny
  | .dex => .dex
  | .dey => .dey
  | .jmp _ => .jmp
  | .jsr _ => .jsr
  | .rts => .rts
  | .bpl _ => .bpl
  | .bmi _ => .bmi
  | .bcc _ => .bcc
  | .bcs _ => .bcs
  | .bne _ => .bne
  | .beq _ => .beq
  | .cmpImm _ => .cmp
  | .cmpZp _ => .cmp
  | .cmpZpX _ => .cmp
  | .cmpAbs _ => .cmp
  | .cmpIndX _ => .cmp
  | .cmpIndY _ => .cmp
  | .cpxImm _ => .cpx
  | .cpxZp _ => .cpx
  | .cpxAbs _ => .cpx
  | .cpyImm _ => .cpy
  | .cpyZp _ => .cpy
  | .cpyAbs _ => .cpy
  | .andImm _ => .and
  | .andZp _ => .and
  | .andZpX _ => .and
  | .andAbs _ => .and
  | .andIndX _ => .and
  | .andIndY _ => .and
  | .bitZp _ => .bit
  | .bitAbs _ => .bit
  | .lsrA => .lsr
  | .lsrZp _ => .lsr
  | .lsrZpX _ => .lsr
  | .lsrAbs _ => .lsr
  | .adcImm _ => .adc
  | .adcZp _ => .adc
  | .adcZpX _ => .adc
  | .adcAbs _ => .adc
  | .adcIndX _ => .adc
  | .adcIndY _ => .adc
  | .sbcImm _ => .sbc
  | .sbcZp _ => .sbc
  | .sbcZpX _ => .sbc
  | .sbcAbs _ => .sbc
  | .sbcIndX _ => .sbc
  | .sbcIndY _ => .sbc
  | .clc => .clc
  | .sec => .sec
  | .nop => .nop
  | .brk => .brk

/-- The operand of an instruction, with its mode (R65, R66). -/
def Instr.operand : Instr → Operand
  | .ldaImm b => .immediate b
  | .ldaZp b => .zeroPage b
  | .ldaZpX b => .zeroPageX b
  | .ldaAbs addr => .absolute addr
  | .ldaIndX b => .indexedIndirect b
  | .ldaIndY b => .indirectIndexed b
  | .ldxImm b => .immediate b
  | .ldxZp b => .zeroPage b
  | .ldxAbs addr => .absolute addr
  | .ldyImm b => .immediate b
  | .ldyZp b => .zeroPage b
  | .ldyZpX b => .zeroPageX b
  | .ldyAbs addr => .absolute addr
  | .staZp b => .zeroPage b
  | .staZpX b => .zeroPageX b
  | .staAbs addr => .absolute addr
  | .staIndX b => .indexedIndirect b
  | .staIndY b => .indirectIndexed b
  | .stxZp b => .zeroPage b
  | .stxAbs addr => .absolute addr
  | .styZp b => .zeroPage b
  | .styZpX b => .zeroPageX b
  | .styAbs addr => .absolute addr
  | .tax => .implicit
  | .tay => .implicit
  | .txa => .implicit
  | .tya => .implicit
  | .incZp b => .zeroPage b
  | .incZpX b => .zeroPageX b
  | .incAbs addr => .absolute addr
  | .decZp b => .zeroPage b
  | .decZpX b => .zeroPageX b
  | .decAbs addr => .absolute addr
  | .inx => .implicit
  | .iny => .implicit
  | .dex => .implicit
  | .dey => .implicit
  | .jmp addr => .absolute addr
  | .jsr addr => .absolute addr
  | .rts => .implicit
  | .bpl offset => .relative offset
  | .bmi offset => .relative offset
  | .bcc offset => .relative offset
  | .bcs offset => .relative offset
  | .bne offset => .relative offset
  | .beq offset => .relative offset
  | .cmpImm b => .immediate b
  | .cmpZp b => .zeroPage b
  | .cmpZpX b => .zeroPageX b
  | .cmpAbs addr => .absolute addr
  | .cmpIndX b => .indexedIndirect b
  | .cmpIndY b => .indirectIndexed b
  | .cpxImm b => .immediate b
  | .cpxZp b => .zeroPage b
  | .cpxAbs addr => .absolute addr
  | .cpyImm b => .immediate b
  | .cpyZp b => .zeroPage b
  | .cpyAbs addr => .absolute addr
  | .andImm b => .immediate b
  | .andZp b => .zeroPage b
  | .andZpX b => .zeroPageX b
  | .andAbs addr => .absolute addr
  | .andIndX b => .indexedIndirect b
  | .andIndY b => .indirectIndexed b
  | .bitZp b => .zeroPage b
  | .bitAbs addr => .absolute addr
  | .lsrA => .implicit
  | .lsrZp b => .zeroPage b
  | .lsrZpX b => .zeroPageX b
  | .lsrAbs addr => .absolute addr
  | .adcImm b => .immediate b
  | .adcZp b => .zeroPage b
  | .adcZpX b => .zeroPageX b
  | .adcAbs addr => .absolute addr
  | .adcIndX b => .indexedIndirect b
  | .adcIndY b => .indirectIndexed b
  | .sbcImm b => .immediate b
  | .sbcZp b => .zeroPage b
  | .sbcZpX b => .zeroPageX b
  | .sbcAbs addr => .absolute addr
  | .sbcIndX b => .indexedIndirect b
  | .sbcIndY b => .indirectIndexed b
  | .clc => .implicit
  | .sec => .implicit
  | .nop => .implicit
  | .brk => .implicit

/-- The descriptor of an instruction (R66). -/
def Instr.descriptor (i : Instr) : Descriptor := ⟨i.mnemonic, i.operand.mode⟩

end Sys2Proof
end

