-- ==== Sys2Proof/Machine/Operands.lean ====
section
/-! DEFINITION. The address_resolver (40_addressing_modes.md): one definition per mode, giving the effective address and
the state after the reads the mode makes. The operand bytes themselves have been fetched already (Machine/Fetch.lean), so
`pc` stands after the instruction; every mode fetches its operand bytes before any pointer read, so the order of R59 is
kept (log 7). -/

namespace Sys2Proof.Machine

/-- Relative: `(pc + sext_8(offset)) mod 65536`, `pc` being after the offset byte (R75). -/
def resolveRelative (offset : Byte) (s : State) : Word × State :=
  (BitVec.ofInt 16 ((s.pc.toNat : Int) + sext8 offset), s)

/-- Immediate: the address of the operand byte itself, the byte before `pc` (R76). -/
def resolveImmediate (s : State) : Word × State := (s.pc - 1#16, s)

/-- Zero Page: the operand byte as an address (R77). -/
def resolveZeroPage (b : Byte) (s : State) : Word × State := (zext16 b, s)

/-- Zero Page,X: `(b + X) mod 256` (R78). -/
def resolveZeroPageX (b : Byte) (s : State) : Word × State := (zext16 (b + s.x), s)

/-- Absolute: the operand word (R79). -/
def resolveAbsolute (addr : Word) (s : State) : Word × State := (addr, s)

/-- The little-endian word at zero-page address `p`: the low byte is read first, and the high byte's address wraps within
the zero page (R80, R81). -/
def readPointer (p : Byte) (s : State) : Word × State :=
  (toWord (memRead (zext16 p) s).1 (memRead (zext16 (p + 1#8)) (memRead (zext16 p) s).2).1,
    (memRead (zext16 (p + 1#8)) (memRead (zext16 p) s).2).2)

/-- Indexed Indirect, `(zp,X)`: the pointer at `(b + X) mod 256` (R80). -/
def resolveIndexedIndirect (b : Byte) (s : State) : Word × State := readPointer (b + s.x) s

/-- Indirect Indexed, `(zp),Y`: the pointer at `b`, plus Y, wrapping at 64 KiB (R81). -/
def resolveIndirectIndexed (b : Byte) (s : State) : Word × State :=
  ((readPointer b s).1 + zext16 s.y, (readPointer b s).2)

/-- `Resolve(mode)`: the effective address, or none in Implicit mode (R71, R73), and the state after the mode's reads. -/
def resolve (o : Operand) (s : State) : Option Word × State :=
  match o with
  | .implicit => (none, s)
  | .relative offset => (some (resolveRelative offset s).1, (resolveRelative offset s).2)
  | .immediate _ => (some (resolveImmediate s).1, (resolveImmediate s).2)
  | .zeroPage b => (some (resolveZeroPage b s).1, (resolveZeroPage b s).2)
  | .zeroPageX b => (some (resolveZeroPageX b s).1, (resolveZeroPageX b s).2)
  | .absolute addr => (some (resolveAbsolute addr s).1, (resolveAbsolute addr s).2)
  | .indexedIndirect b => (some (resolveIndexedIndirect b s).1, (resolveIndexedIndirect b s).2)
  | .indirectIndexed b => (some (resolveIndirectIndexed b s).1, (resolveIndirectIndexed b s).2)

/-- An operation body run at a resolved effective address, in the state the resolution left (R72, R82). No body stops. -/
def atAddress (resolved : Word × State) (body : Word → State → State) : Result :=
  .next (body resolved.1 resolved.2)

end Sys2Proof.Machine
end

