-- ==== Sys2Proof/Machine/Bodies.lean ====
section
/-! DEFINITION. The operation bodies that several instructions share (R84), written as their rules' pseudocode is, with
`ea` the effective address. Each memory access is named where the pseudocode makes it (R14, R59). -/

namespace Sys2Proof.Machine

/-- LDA, LDX, LDY: `SetReg(r, MemRead(ea, 1))` (R90 to R92). -/
def load (r : Reg) (ea : Word) (s : State) : State := setReg r (memRead ea s).1.toNat (memRead ea s).2

/-- STA, STX, STY: `MemWrite(ea, 1, r)`; no flag changes (R93 to R95). -/
def store (r : Reg) (ea : Word) (s : State) : State := memWrite ea (s.reg r) s

/-- TAX, TAY, TXA, TYA: `SetReg(target, source)` (R96 to R99). -/
def transfer (source target : Reg) (s : State) : State := setReg target (s.reg source).toNat s

/-- The value `NZ(n)` stored at `ea`, as the read-modify-write instructions do last (R100, R101, R120). -/
def storeResult (n : Int) (ea : Word) (s : State) : State := memWrite ea (nz n s).1 (nz n s).2

/-- INC: one read, `NZ(v + 1)`, one write at the same address (R57, R100). -/
def incrementMemory (ea : Word) (s : State) : State :=
  storeResult ((memRead ea s).1.toNat + 1) ea (memRead ea s).2

/-- DEC: one read, `NZ(v - 1)`, one write at the same address (R57, R101). -/
def decrementMemory (ea : Word) (s : State) : State :=
  storeResult ((memRead ea s).1.toNat - 1) ea (memRead ea s).2

/-- INX, INY: `SetReg(r, r + 1)` (R102, R103). -/
def incrementRegister (r : Reg) (s : State) : State := setReg r ((s.reg r).toNat + 1) s

/-- DEX, DEY: `SetReg(r, r - 1)` (R104, R105). -/
def decrementRegister (r : Reg) (s : State) : State := setReg r ((s.reg r).toNat - 1) s

/-- The conditional branches: `branch(cond, ea)`, the condition taken from the current flags (R39, R109 to R114). -/
def branchIf (cond : State → Bool) (ea : Word) (s : State) : State := branch (cond s) ea s

/-- CMP, CPX, CPY: `Compare(r)`; no register and no cell is written (R115 to R117). -/
def compare (r : Reg) (ea : Word) (s : State) : State :=
  compareFlags (s.reg r) (memRead ea s).1 (memRead ea s).2

/-- AND: `SetReg(A, A & MemRead(ea, 1))` (R118). -/
def andAccumulator (ea : Word) (s : State) : State := setReg .a (s.a &&& (memRead ea s).1).toNat (memRead ea s).2

/-- BIT: reads `ea`, sets Z and N, changes nothing else (R119). -/
def bitTest (ea : Word) (s : State) : State := bitTestFlags s.a (memRead ea s).1 (memRead ea s).2

/-- LSR on A: C from bit 0, then `SetReg(A, v >> 1)` (R120). -/
def shiftRightAccumulator (s : State) : State := setReg .a (shiftResult s.a) (setCarryIf (shiftCarry s.a) s)

/-- LSR on memory: one read, C from bit 0, `NZ(v >> 1)`, one write at the same address (R57, R120). -/
def shiftRightMemory (ea : Word) (s : State) : State :=
  storeResult (shiftResult (memRead ea s).1) ea (setCarryIf (shiftCarry (memRead ea s).1) (memRead ea s).2)

/-- ADC: `t <- A + M + C`, C from `t > 255`, `SetReg(A, t)` (R122). -/
def addWithCarry (ea : Word) (s : State) : State :=
  setReg .a (adcSum s.a (memRead ea s).1 s.c)
    (setCarryIf (decide (255 < adcSum s.a (memRead ea s).1 s.c)) (memRead ea s).2)

/-- SBC: `t <- A - M - (1 - C)`, C from `t >= 0`, `SetReg(A, t)` (R123). -/
def subtractWithCarry (ea : Word) (s : State) : State :=
  setReg .a (sbcDifference s.a (memRead ea s).1 s.c)
    (setCarryIf (decide (0 ≤ sbcDifference s.a (memRead ea s).1 s.c)) (memRead ea s).2)

end Sys2Proof.Machine
end

