-- ==== Sys2Proof/Machine/Arith.lean ====
section
/-! DEFINITION. Addition, subtraction and the carry operations (47_arith_carry.md, R121 to R125): one meaning per instruction,
each the addressing mode's resolution followed by the operation body of Machine/Bodies.lean (R82, R84). A meaning starts
where the instruction's bytes have been fetched, so `pc` is the address of the first byte after it (R23). -/

namespace Sys2Proof.Machine

/-- ADC, add with carry, Immediate (R122). The operand byte was consumed by the fetch and its value discarded; the body reads
memory at its address (R76). -/
def execAdcImm (_b : Byte) (s : State) : Result := atAddress (resolveImmediate s) addWithCarry

/-- ADC, add with carry, Zero Page (R122). -/
def execAdcZp (b : Byte) (s : State) : Result := atAddress (resolveZeroPage b s) addWithCarry

/-- ADC, add with carry, Zero Page,X (R122). -/
def execAdcZpX (b : Byte) (s : State) : Result := atAddress (resolveZeroPageX b s) addWithCarry

/-- ADC, add with carry, Absolute (R122). -/
def execAdcAbs (addr : Word) (s : State) : Result := atAddress (resolveAbsolute addr s) addWithCarry

/-- ADC, add with carry, (zp,X) (R122). -/
def execAdcIndX (b : Byte) (s : State) : Result := atAddress (resolveIndexedIndirect b s) addWithCarry

/-- ADC, add with carry, (zp),Y (R122). -/
def execAdcIndY (b : Byte) (s : State) : Result := atAddress (resolveIndirectIndexed b s) addWithCarry

/-- SBC, subtract with carry (borrow), Immediate (R123). The operand byte was consumed by the fetch and its value discarded; the body reads
memory at its address (R76). -/
def execSbcImm (_b : Byte) (s : State) : Result := atAddress (resolveImmediate s) subtractWithCarry

/-- SBC, subtract with carry (borrow), Zero Page (R123). -/
def execSbcZp (b : Byte) (s : State) : Result := atAddress (resolveZeroPage b s) subtractWithCarry

/-- SBC, subtract with carry (borrow), Zero Page,X (R123). -/
def execSbcZpX (b : Byte) (s : State) : Result := atAddress (resolveZeroPageX b s) subtractWithCarry

/-- SBC, subtract with carry (borrow), Absolute (R123). -/
def execSbcAbs (addr : Word) (s : State) : Result := atAddress (resolveAbsolute addr s) subtractWithCarry

/-- SBC, subtract with carry (borrow), (zp,X) (R123). -/
def execSbcIndX (b : Byte) (s : State) : Result := atAddress (resolveIndexedIndirect b s) subtractWithCarry

/-- SBC, subtract with carry (borrow), (zp),Y (R123). -/
def execSbcIndY (b : Byte) (s : State) : Result := atAddress (resolveIndirectIndexed b s) subtractWithCarry

/-- CLC, clear carry (R124). -/
def execClc (s : State) : Result := .next (clearCarry s)

/-- SEC, set carry (R125). -/
def execSec (s : State) : Result := .next (setCarry s)

end Sys2Proof.Machine
end

