-- ==== Sys2Proof/Machine/Compare.lean ====
section
/-! DEFINITION. Comparisons (45_compare.md, R115 to R117): one meaning per instruction,
each the addressing mode's resolution followed by the operation body of Machine/Bodies.lean (R82, R84). A meaning starts
where the instruction's bytes have been fetched, so `pc` is the address of the first byte after it (R23). -/

namespace Sys2Proof.Machine

/-- CMP, compare accumulator, Immediate (R115). The operand byte was consumed by the fetch and its value discarded; the body reads
memory at its address (R76). -/
def execCmpImm (_b : Byte) (s : State) : Result := atAddress (resolveImmediate s) (compare .a)

/-- CMP, compare accumulator, Zero Page (R115). -/
def execCmpZp (b : Byte) (s : State) : Result := atAddress (resolveZeroPage b s) (compare .a)

/-- CMP, compare accumulator, Zero Page,X (R115). -/
def execCmpZpX (b : Byte) (s : State) : Result := atAddress (resolveZeroPageX b s) (compare .a)

/-- CMP, compare accumulator, Absolute (R115). -/
def execCmpAbs (addr : Word) (s : State) : Result := atAddress (resolveAbsolute addr s) (compare .a)

/-- CMP, compare accumulator, (zp,X) (R115). -/
def execCmpIndX (b : Byte) (s : State) : Result := atAddress (resolveIndexedIndirect b s) (compare .a)

/-- CMP, compare accumulator, (zp),Y (R115). -/
def execCmpIndY (b : Byte) (s : State) : Result := atAddress (resolveIndirectIndexed b s) (compare .a)

/-- CPX, compare X, Immediate (R116). The operand byte was consumed by the fetch and its value discarded; the body reads
memory at its address (R76). -/
def execCpxImm (_b : Byte) (s : State) : Result := atAddress (resolveImmediate s) (compare .x)

/-- CPX, compare X, Zero Page (R116). -/
def execCpxZp (b : Byte) (s : State) : Result := atAddress (resolveZeroPage b s) (compare .x)

/-- CPX, compare X, Absolute (R116). -/
def execCpxAbs (addr : Word) (s : State) : Result := atAddress (resolveAbsolute addr s) (compare .x)

/-- CPY, compare Y, Immediate (R117). The operand byte was consumed by the fetch and its value discarded; the body reads
memory at its address (R76). -/
def execCpyImm (_b : Byte) (s : State) : Result := atAddress (resolveImmediate s) (compare .y)

/-- CPY, compare Y, Zero Page (R117). -/
def execCpyZp (b : Byte) (s : State) : Result := atAddress (resolveZeroPage b s) (compare .y)

/-- CPY, compare Y, Absolute (R117). -/
def execCpyAbs (addr : Word) (s : State) : Result := atAddress (resolveAbsolute addr s) (compare .y)

end Sys2Proof.Machine
end

