-- ==== Sys2Proof/Machine/Control.lean ====
section
/-! DEFINITION. Jumps, branches and subroutine linkage (44_control_transfer.md, R106 to R114): one meaning per instruction,
each the addressing mode's resolution followed by the operation body of Machine/Bodies.lean (R82, R84). A meaning starts
where the instruction's bytes have been fetched, so `pc` is the address of the first byte after it (R23). -/

namespace Sys2Proof.Machine

/-- JMP, jump (R106). -/
def execJmp (addr : Word) (s : State) : Result := atAddress (resolveAbsolute addr s) jump

/-- JSR, jump to subroutine (R107). -/
def execJsr (addr : Word) (s : State) : Result := atAddress (resolveAbsolute addr s) callSubroutine

/-- RTS, return from subroutine (R108). -/
def execRts (s : State) : Result := .next (returnFromSubroutine s)

/-- BPL, branch if plus (N = 0) (R109). -/
def execBpl (offset : Byte) (s : State) : Result := atAddress (resolveRelative offset s) (branchIf (fun s => !s.n))

/-- BMI, branch if minus (N = 1) (R110). -/
def execBmi (offset : Byte) (s : State) : Result := atAddress (resolveRelative offset s) (branchIf (fun s => s.n))

/-- BCC, branch if carry clear (C = 0) (R111). -/
def execBcc (offset : Byte) (s : State) : Result := atAddress (resolveRelative offset s) (branchIf (fun s => !s.c))

/-- BCS, branch if carry set (C = 1) (R112). -/
def execBcs (offset : Byte) (s : State) : Result := atAddress (resolveRelative offset s) (branchIf (fun s => s.c))

/-- BNE, branch if not equal (Z = 0) (R113). -/
def execBne (offset : Byte) (s : State) : Result := atAddress (resolveRelative offset s) (branchIf (fun s => !s.z))

/-- BEQ, branch if equal (Z = 1) (R114). -/
def execBeq (offset : Byte) (s : State) : Result := atAddress (resolveRelative offset s) (branchIf (fun s => s.z))

end Sys2Proof.Machine
end

