-- ==== Sys2Proof/Machine/IncDec.lean ====
section
/-! DEFINITION. Increment and decrement (43_inc_dec.md, R100 to R105): one meaning per instruction,
each the addressing mode's resolution followed by the operation body of Machine/Bodies.lean (R82, R84). A meaning starts
where the instruction's bytes have been fetched, so `pc` is the address of the first byte after it (R23). -/

namespace Sys2Proof.Machine

/-- INC, increment memory, Zero Page (R100). -/
def execIncZp (b : Byte) (s : State) : Result := atAddress (resolveZeroPage b s) incrementMemory

/-- INC, increment memory, Zero Page,X (R100). -/
def execIncZpX (b : Byte) (s : State) : Result := atAddress (resolveZeroPageX b s) incrementMemory

/-- INC, increment memory, Absolute (R100). -/
def execIncAbs (addr : Word) (s : State) : Result := atAddress (resolveAbsolute addr s) incrementMemory

/-- DEC, decrement memory, Zero Page (R101). -/
def execDecZp (b : Byte) (s : State) : Result := atAddress (resolveZeroPage b s) decrementMemory

/-- DEC, decrement memory, Zero Page,X (R101). -/
def execDecZpX (b : Byte) (s : State) : Result := atAddress (resolveZeroPageX b s) decrementMemory

/-- DEC, decrement memory, Absolute (R101). -/
def execDecAbs (addr : Word) (s : State) : Result := atAddress (resolveAbsolute addr s) decrementMemory

/-- INX, increment X (R102). -/
def execInx (s : State) : Result := .next (incrementRegister .x s)

/-- INY, increment Y (R103). -/
def execIny (s : State) : Result := .next (incrementRegister .y s)

/-- DEX, decrement X (R104). -/
def execDex (s : State) : Result := .next (decrementRegister .x s)

/-- DEY, decrement Y (R105). -/
def execDey (s : State) : Result := .next (decrementRegister .y s)

end Sys2Proof.Machine
end

