-- ==== Sys2Proof/Machine/LoadStore.lean ====
section
/-! DEFINITION. Register loads, stores and transfers (42_load_store.md, R90 to R99): one meaning per instruction,
each the addressing mode's resolution followed by the operation body of Machine/Bodies.lean (R82, R84). A meaning starts
where the instruction's bytes have been fetched, so `pc` is the address of the first byte after it (R23). -/

namespace Sys2Proof.Machine

/-- LDA, load accumulator, Immediate (R90). The operand byte was consumed by the fetch and its value discarded; the body reads
memory at its address (R76). -/
def execLdaImm (_b : Byte) (s : State) : Result := atAddress (resolveImmediate s) (load .a)

/-- LDA, load accumulator, Zero Page (R90). -/
def execLdaZp (b : Byte) (s : State) : Result := atAddress (resolveZeroPage b s) (load .a)

/-- LDA, load accumulator, Zero Page,X (R90). -/
def execLdaZpX (b : Byte) (s : State) : Result := atAddress (resolveZeroPageX b s) (load .a)

/-- LDA, load accumulator, Absolute (R90). -/
def execLdaAbs (addr : Word) (s : State) : Result := atAddress (resolveAbsolute addr s) (load .a)

/-- LDA, load accumulator, (zp,X) (R90). -/
def execLdaIndX (b : Byte) (s : State) : Result := atAddress (resolveIndexedIndirect b s) (load .a)

/-- LDA, load accumulator, (zp),Y (R90). -/
def execLdaIndY (b : Byte) (s : State) : Result := atAddress (resolveIndirectIndexed b s) (load .a)

/-- LDX, load X, Immediate (R91). The operand byte was consumed by the fetch and its value discarded; the body reads
memory at its address (R76). -/
def execLdxImm (_b : Byte) (s : State) : Result := atAddress (resolveImmediate s) (load .x)

/-- LDX, load X, Zero Page (R91). -/
def execLdxZp (b : Byte) (s : State) : Result := atAddress (resolveZeroPage b s) (load .x)

/-- LDX, load X, Absolute (R91). -/
def execLdxAbs (addr : Word) (s : State) : Result := atAddress (resolveAbsolute addr s) (load .x)

/-- LDY, load Y, Immediate (R92). The operand byte was consumed by the fetch and its value discarded; the body reads
memory at its address (R76). -/
def execLdyImm (_b : Byte) (s : State) : Result := atAddress (resolveImmediate s) (load .y)

/-- LDY, load Y, Zero Page (R92). -/
def execLdyZp (b : Byte) (s : State) : Result := atAddress (resolveZeroPage b s) (load .y)

/-- LDY, load Y, Zero Page,X (R92). -/
def execLdyZpX (b : Byte) (s : State) : Result := atAddress (resolveZeroPageX b s) (load .y)

/-- LDY, load Y, Absolute (R92). -/
def execLdyAbs (addr : Word) (s : State) : Result := atAddress (resolveAbsolute addr s) (load .y)

/-- STA, store accumulator, Zero Page (R93). -/
def execStaZp (b : Byte) (s : State) : Result := atAddress (resolveZeroPage b s) (store .a)

/-- STA, store accumulator, Zero Page,X (R93). -/
def execStaZpX (b : Byte) (s : State) : Result := atAddress (resolveZeroPageX b s) (store .a)

/-- STA, store accumulator, Absolute (R93). -/
def execStaAbs (addr : Word) (s : State) : Result := atAddress (resolveAbsolute addr s) (store .a)

/-- STA, store accumulator, (zp,X) (R93). -/
def execStaIndX (b : Byte) (s : State) : Result := atAddress (resolveIndexedIndirect b s) (store .a)

/-- STA, store accumulator, (zp),Y (R93). -/
def execStaIndY (b : Byte) (s : State) : Result := atAddress (resolveIndirectIndexed b s) (store .a)

/-- STX, store X, Zero Page (R94). -/
def execStxZp (b : Byte) (s : State) : Result := atAddress (resolveZeroPage b s) (store .x)

/-- STX, store X, Absolute (R94). -/
def execStxAbs (addr : Word) (s : State) : Result := atAddress (resolveAbsolute addr s) (store .x)

/-- STY, store Y, Zero Page (R95). -/
def execStyZp (b : Byte) (s : State) : Result := atAddress (resolveZeroPage b s) (store .y)

/-- STY, store Y, Zero Page,X (R95). -/
def execStyZpX (b : Byte) (s : State) : Result := atAddress (resolveZeroPageX b s) (store .y)

/-- STY, store Y, Absolute (R95). -/
def execStyAbs (addr : Word) (s : State) : Result := atAddress (resolveAbsolute addr s) (store .y)

/-- TAX, transfer A to X (R96). -/
def execTax (s : State) : Result := .next (transfer .a .x s)

/-- TAY, transfer A to Y (R97). -/
def execTay (s : State) : Result := .next (transfer .a .y s)

/-- TXA, transfer X to A (R98). -/
def execTxa (s : State) : Result := .next (transfer .x .a s)

/-- TYA, transfer Y to A (R99). -/
def execTya (s : State) : Result := .next (transfer .y .a s)

end Sys2Proof.Machine
end

