-- ==== Sys2Proof/Machine/Logic.lean ====
section
/-! DEFINITION. Bitwise AND, bit test and logical shift right (46_logic_shift.md, R118 to R120): one meaning per instruction,
each the addressing mode's resolution followed by the operation body of Machine/Bodies.lean (R82, R84). A meaning starts
where the instruction's bytes have been fetched, so `pc` is the address of the first byte after it (R23). -/

namespace Sys2Proof.Machine

/-- AND, bitwise AND with accumulator, Immediate (R118). The operand byte was consumed by the fetch and its value discarded; the body reads
memory at its address (R76). -/
def execAndImm (_b : Byte) (s : State) : Result := atAddress (resolveImmediate s) andAccumulator

/-- AND, bitwise AND with accumulator, Zero Page (R118). -/
def execAndZp (b : Byte) (s : State) : Result := atAddress (resolveZeroPage b s) andAccumulator

/-- AND, bitwise AND with accumulator, Zero Page,X (R118). -/
def execAndZpX (b : Byte) (s : State) : Result := atAddress (resolveZeroPageX b s) andAccumulator

/-- AND, bitwise AND with accumulator, Absolute (R118). -/
def execAndAbs (addr : Word) (s : State) : Result := atAddress (resolveAbsolute addr s) andAccumulator

/-- AND, bitwise AND with accumulator, (zp,X) (R118). -/
def execAndIndX (b : Byte) (s : State) : Result := atAddress (resolveIndexedIndirect b s) andAccumulator

/-- AND, bitwise AND with accumulator, (zp),Y (R118). -/
def execAndIndY (b : Byte) (s : State) : Result := atAddress (resolveIndirectIndexed b s) andAccumulator

/-- BIT, bit test, Zero Page (R119). -/
def execBitZp (b : Byte) (s : State) : Result := atAddress (resolveZeroPage b s) bitTest

/-- BIT, bit test, Absolute (R119). -/
def execBitAbs (addr : Word) (s : State) : Result := atAddress (resolveAbsolute addr s) bitTest

/-- LSR, logical shift right, Implicit: the accumulator form (R120). -/
def execLsrA (s : State) : Result := .next (shiftRightAccumulator s)

/-- LSR, logical shift right, Zero Page (R120). -/
def execLsrZp (b : Byte) (s : State) : Result := atAddress (resolveZeroPage b s) shiftRightMemory

/-- LSR, logical shift right, Zero Page,X (R120). -/
def execLsrZpX (b : Byte) (s : State) : Result := atAddress (resolveZeroPageX b s) shiftRightMemory

/-- LSR, logical shift right, Absolute (R120). -/
def execLsrAbs (addr : Word) (s : State) : Result := atAddress (resolveAbsolute addr s) shiftRightMemory

end Sys2Proof.Machine
end

