-- ==== Sys2Proof/Machine/System.lean ====
section
/-! DEFINITION. Stop and no-operation (48_system.md, R126 and R127): one meaning per instruction,
each the addressing mode's resolution followed by the operation body of Machine/Bodies.lean (R82, R84). A meaning starts
where the instruction's bytes have been fetched, so `pc` is the address of the first byte after it (R23). -/

namespace Sys2Proof.Machine

/-- NOP, no operation (R127). -/
def execNop (s : State) : Result := .next s

/-- BRK, stop (R126). -/
def execBrk (s : State) : Result := .next (haltStop s)

end Sys2Proof.Machine
end

