-- ==== Sys2Proof/Decode.lean ====
section
/-! DEFINITION. The instruction decoder (30_encoding.md): the descriptor table, operand assembly, a decoder that is total
on any bytes and rejects by name, and the encoder written from the same tables. -/

namespace Sys2Proof

open Sys2Proof.Machine (toWord loByte hiByte)

/-- A row of the descriptor table (R66). -/
structure DescriptorRow where
  opcode : Byte
  descriptor : Descriptor
deriving DecidableEq, Repr

/-- R66's rows for LDA, LDX, LDY, STA, STX, STY, TAX, TAY, TXA, TYA. -/
def rowsLoadStore : List DescriptorRow := [
  ⟨0xA9#8, ⟨.lda, .immediate⟩⟩,
  ⟨0xA5#8, ⟨.lda, .zeroPage⟩⟩,
  ⟨0xB5#8, ⟨.lda, .zeroPageX⟩⟩,
  ⟨0xAD#8, ⟨.lda, .absolute⟩⟩,
  ⟨0xA1#8, ⟨.lda, .indexedIndirect⟩⟩,
  ⟨0xB1#8, ⟨.lda, .indirectIndexed⟩⟩,
  ⟨0xA2#8, ⟨.ldx, .immediate⟩⟩,
  ⟨0xA6#8, ⟨.ldx, .zeroPage⟩⟩,
  ⟨0xAE#8, ⟨.ldx, .absolute⟩⟩,
  ⟨0xA0#8, ⟨.ldy, .immediate⟩⟩,
  ⟨0xA4#8, ⟨.ldy, .zeroPage⟩⟩,
  ⟨0xB4#8, ⟨.ldy, .zeroPageX⟩⟩,
  ⟨0xAC#8, ⟨.ldy, .absolute⟩⟩,
  ⟨0x85#8, ⟨.sta, .zeroPage⟩⟩,
  ⟨0x95#8, ⟨.sta, .zeroPageX⟩⟩,
  ⟨0x8D#8, ⟨.sta, .absolute⟩⟩,
  ⟨0x81#8, ⟨.sta, .indexedIndirect⟩⟩,
  ⟨0x91#8, ⟨.sta, .indirectIndexed⟩⟩,
  ⟨0x86#8, ⟨.stx, .zeroPage⟩⟩,
  ⟨0x8E#8, ⟨.stx, .absolute⟩⟩,
  ⟨0x84#8, ⟨.sty, .zeroPage⟩⟩,
  ⟨0x94#8, ⟨.sty, .zeroPageX⟩⟩,
  ⟨0x8C#8, ⟨.sty, .absolute⟩⟩,
  ⟨0xAA#8, ⟨.tax, .implicit⟩⟩,
  ⟨0xA8#8, ⟨.tay, .implicit⟩⟩,
  ⟨0x8A#8, ⟨.txa, .implicit⟩⟩,
  ⟨0x98#8, ⟨.tya, .implicit⟩⟩]

/-- R66's rows for INC, DEC, INX, INY, DEX, DEY. -/
def rowsIncDec : List DescriptorRow := [
  ⟨0xE6#8, ⟨.inc, .zeroPage⟩⟩,
  ⟨0xF6#8, ⟨.inc, .zeroPageX⟩⟩,
  ⟨0xEE#8, ⟨.inc, .absolute⟩⟩,
  ⟨0xC6#8, ⟨.dec, .zeroPage⟩⟩,
  ⟨0xD6#8, ⟨.dec, .zeroPageX⟩⟩,
  ⟨0xCE#8, ⟨.dec, .absolute⟩⟩,
  ⟨0xE8#8, ⟨.inx, .implicit⟩⟩,
  ⟨0xC8#8, ⟨.iny, .implicit⟩⟩,
  ⟨0xCA#8, ⟨.dex, .implicit⟩⟩,
  ⟨0x88#8, ⟨.dey, .implicit⟩⟩]

/-- R66's rows for JMP, JSR, RTS, BPL, BMI, BCC, BCS, BNE, BEQ. -/
def rowsControl : List DescriptorRow := [
  ⟨0x4C#8, ⟨.jmp, .absolute⟩⟩,
  ⟨0x20#8, ⟨.jsr, .absolute⟩⟩,
  ⟨0x60#8, ⟨.rts, .implicit⟩⟩,
  ⟨0x10#8, ⟨.bpl, .relative⟩⟩,
  ⟨0x30#8, ⟨.bmi, .relative⟩⟩,
  ⟨0x90#8, ⟨.bcc, .relative⟩⟩,
  ⟨0xB0#8, ⟨.bcs, .relative⟩⟩,
  ⟨0xD0#8, ⟨.bne, .relative⟩⟩,
  ⟨0xF0#8, ⟨.beq, .relative⟩⟩]

/-- R66's rows for CMP, CPX, CPY. -/
def rowsCompare : List DescriptorRow := [
  ⟨0xC9#8, ⟨.cmp, .immediate⟩⟩,
  ⟨0xC5#8, ⟨.cmp, .zeroPage⟩⟩,
  ⟨0xD5#8, ⟨.cmp, .zeroPageX⟩⟩,
  ⟨0xCD#8, ⟨.cmp, .absolute⟩⟩,
  ⟨0xC1#8, ⟨.cmp, .indexedIndirect⟩⟩,
  ⟨0xD1#8, ⟨.cmp, .indirectIndexed⟩⟩,
  ⟨0xE0#8, ⟨.cpx, .immediate⟩⟩,
  ⟨0xE4#8, ⟨.cpx, .zeroPage⟩⟩,
  ⟨0xEC#8, ⟨.cpx, .absolute⟩⟩,
  ⟨0xC0#8, ⟨.cpy, .immediate⟩⟩,
  ⟨0xC4#8, ⟨.cpy, .zeroPage⟩⟩,
  ⟨0xCC#8, ⟨.cpy, .absolute⟩⟩]

/-- R66's rows for AND, BIT, LSR. -/
def rowsLogic : List DescriptorRow := [
  ⟨0x29#8, ⟨.and, .immediate⟩⟩,
  ⟨0x25#8, ⟨.and, .zeroPage⟩⟩,
  ⟨0x35#8, ⟨.and, .zeroPageX⟩⟩,
  ⟨0x2D#8, ⟨.and, .absolute⟩⟩,
  ⟨0x21#8, ⟨.and, .indexedIndirect⟩⟩,
  ⟨0x31#8, ⟨.and, .indirectIndexed⟩⟩,
  ⟨0x24#8, ⟨.bit, .zeroPage⟩⟩,
  ⟨0x2C#8, ⟨.bit, .absolute⟩⟩,
  ⟨0x4A#8, ⟨.lsr, .implicit⟩⟩,
  ⟨0x46#8, ⟨.lsr, .zeroPage⟩⟩,
  ⟨0x56#8, ⟨.lsr, .zeroPageX⟩⟩,
  ⟨0x4E#8, ⟨.lsr, .absolute⟩⟩]

/-- R66's rows for ADC, SBC, CLC, SEC. -/
def rowsArith : List DescriptorRow := [
  ⟨0x69#8, ⟨.adc, .immediate⟩⟩,
  ⟨0x65#8, ⟨.adc, .zeroPage⟩⟩,
  ⟨0x75#8, ⟨.adc, .zeroPageX⟩⟩,
  ⟨0x6D#8, ⟨.adc, .absolute⟩⟩,
  ⟨0x61#8, ⟨.adc, .indexedIndirect⟩⟩,
  ⟨0x71#8, ⟨.adc, .indirectIndexed⟩⟩,
  ⟨0xE9#8, ⟨.sbc, .immediate⟩⟩,
  ⟨0xE5#8, ⟨.sbc, .zeroPage⟩⟩,
  ⟨0xF5#8, ⟨.sbc, .zeroPageX⟩⟩,
  ⟨0xED#8, ⟨.sbc, .absolute⟩⟩,
  ⟨0xE1#8, ⟨.sbc, .indexedIndirect⟩⟩,
  ⟨0xF1#8, ⟨.sbc, .indirectIndexed⟩⟩,
  ⟨0x18#8, ⟨.clc, .implicit⟩⟩,
  ⟨0x38#8, ⟨.sec, .implicit⟩⟩]

/-- R66's rows for NOP, BRK. -/
def rowsSystem : List DescriptorRow := [
  ⟨0xEA#8, ⟨.nop, .implicit⟩⟩,
  ⟨0x00#8, ⟨.brk, .implicit⟩⟩]

/-- The descriptor table: 86 rows; the other 170 bytes have no descriptor (R66, R68). -/
def descriptorTable : List DescriptorRow :=
  rowsLoadStore ++ rowsIncDec ++ rowsControl ++ rowsCompare ++ rowsLogic ++ rowsArith ++ rowsSystem

/-- `Descriptor(op)`: the lookup of the opcode byte, reading no state besides it (R83). -/
def descriptor (op : Byte) : Option Descriptor :=
  (descriptorTable.find? fun r => r.opcode == op).map fun r => r.descriptor

/-- How many operand bytes a mode consumes (R63). -/
def Mode.operandCount : Mode → Nat
  | .implicit => 0
  | .relative => 1
  | .immediate => 1
  | .zeroPage => 1
  | .zeroPageX => 1
  | .absolute => 2
  | .indexedIndirect => 1
  | .indirectIndexed => 1

/-- An instruction's length: its opcode byte and its operand bytes (R62, R63). -/
def Instr.length (i : Instr) : Nat := 1 + i.operand.mode.operandCount

/-- The operand a mode makes of the bytes after the opcode, and the bytes that remain (R65); none where too few follow. -/
def takeOperand : Mode → List Byte → Option (Operand × List Byte)
  | .implicit, bytes => some (.implicit, bytes)
  | .relative, b :: bytes => some (.relative b, bytes)
  | .immediate, b :: bytes => some (.immediate b, bytes)
  | .zeroPage, b :: bytes => some (.zeroPage b, bytes)
  | .zeroPageX, b :: bytes => some (.zeroPageX b, bytes)
  | .absolute, lo :: hi :: bytes => some (.absolute (toWord lo hi), bytes)
  | .indexedIndirect, b :: bytes => some (.indexedIndirect b, bytes)
  | .indirectIndexed, b :: bytes => some (.indirectIndexed b, bytes)
  | _, _ => none

/-- The instruction of a mnemonic and an operand; none for a pair that R66 does not list. -/
def assemble : Mnemonic → Operand → Option Instr
  | .lda, .immediate b => some (.ldaImm b)
  | .lda, .zeroPage b => some (.ldaZp b)
  | .lda, .zeroPageX b => some (.ldaZpX b)
  | .lda, .absolute addr => some (.ldaAbs addr)
  | .lda, .indexedIndirect b => some (.ldaIndX b)
  | .lda, .indirectIndexed b => some (.ldaIndY b)
  | .ldx, .immediate b => some (.ldxImm b)
  | .ldx, .zeroPage b => some (.ldxZp b)
  | .ldx, .absolute addr => some (.ldxAbs addr)
  | .ldy, .immediate b => some (.ldyImm b)
  | .ldy, .zeroPage b => some (.ldyZp b)
  | .ldy, .zeroPageX b => some (.ldyZpX b)
  | .ldy, .absolute addr => some (.ldyAbs addr)
  | .sta, .zeroPage b => some (.staZp b)
  | .sta, .zeroPageX b => some (.staZpX b)
  | .sta, .absolute addr => some (.staAbs addr)
  | .sta, .indexedIndirect b => some (.staIndX b)
  | .sta, .indirectIndexed b => some (.staIndY b)
  | .stx, .zeroPage b => some (.stxZp b)
  | .stx, .absolute addr => some (.stxAbs addr)
  | .sty, .zeroPage b => some (.styZp b)
  | .sty, .zeroPageX b => some (.styZpX b)
  | .sty, .absolute addr => some (.styAbs addr)
  | .tax, .implicit => some (.tax)
  | .tay, .implicit => some (.tay)
  | .txa, .implicit => some (.txa)
  | .tya, .implicit => some (.tya)
  | .inc, .zeroPage b => some (.incZp b)
  | .inc, .zeroPageX b => some (.incZpX b)
  | .inc, .absolute addr => some (.incAbs addr)
  | .dec, .zeroPage b => some (.decZp b)
  | .dec, .zeroPageX b => some (.decZpX b)
  | .dec, .absolute addr => some (.decAbs addr)
  | .inx, .implicit => some (.inx)
  | .iny, .implicit => some (.iny)
  | .dex, .implicit => some (.dex)
  | .dey, .implicit => some (.dey)
  | .jmp, .absolute addr => some (.jmp addr)
  | .jsr, .absolute addr => some (.jsr addr)
  | .rts, .implicit => some (.rts)
  | .bpl, .relative offset => some (.bpl offset)
  | .bmi, .relative offset => some (.bmi offset)
  | .bcc, .relative offset => some (.bcc offset)
  | .bcs, .relative offset => some (.bcs offset)
  | .bne, .relative offset => some (.bne offset)
  | .beq, .relative offset => some (.beq offset)
  | .cmp, .immediate b => some (.cmpImm b)
  | .cmp, .zeroPage b => some (.cmpZp b)
  | .cmp, .zeroPageX b => some (.cmpZpX b)
  | .cmp, .absolute addr => some (.cmpAbs addr)
  | .cmp, .indexedIndirect b => some (.cmpIndX b)
  | .cmp, .indirectIndexed b => some (.cmpIndY b)
  | .cpx, .immediate b => some (.cpxImm b)
  | .cpx, .zeroPage b => some (.cpxZp b)
  | .cpx, .absolute addr => some (.cpxAbs addr)
  | .cpy, .immediate b => some (.cpyImm b)
  | .cpy, .zeroPage b => some (.cpyZp b)
  | .cpy, .absolute addr => some (.cpyAbs addr)
  | .and, .immediate b => some (.andImm b)
  | .and, .zeroPage b => some (.andZp b)
  | .and, .zeroPageX b => some (.andZpX b)
  | .and, .absolute addr => some (.andAbs addr)
  | .and, .indexedIndirect b => some (.andIndX b)
  | .and, .indirectIndexed b => some (.andIndY b)
  | .bit, .zeroPage b => some (.bitZp b)
  | .bit, .absolute addr => some (.bitAbs addr)
  | .lsr, .implicit => some (.lsrA)
  | .lsr, .zeroPage b => some (.lsrZp b)
  | .lsr, .zeroPageX b => some (.lsrZpX b)
  | .lsr, .absolute addr => some (.lsrAbs addr)
  | .adc, .immediate b => some (.adcImm b)
  | .adc, .zeroPage b => some (.adcZp b)
  | .adc, .zeroPageX b => some (.adcZpX b)
  | .adc, .absolute addr => some (.adcAbs addr)
  | .adc, .indexedIndirect b => some (.adcIndX b)
  | .adc, .indirectIndexed b => some (.adcIndY b)
  | .sbc, .immediate b => some (.sbcImm b)
  | .sbc, .zeroPage b => some (.sbcZp b)
  | .sbc, .zeroPageX b => some (.sbcZpX b)
  | .sbc, .absolute addr => some (.sbcAbs addr)
  | .sbc, .indexedIndirect b => some (.sbcIndX b)
  | .sbc, .indirectIndexed b => some (.sbcIndY b)
  | .clc, .implicit => some (.clc)
  | .sec, .implicit => some (.sec)
  | .nop, .implicit => some (.nop)
  | .brk, .implicit => some (.brk)
  | _, _ => none

/-- Why bytes are no instruction. -/
inductive DecodeFailure where
  /-- There is no byte to read an opcode from. -/
  | noBytes
  /-- The opcode byte has no descriptor (R68). -/
  | noDescriptor (op : Byte)
  /-- The operand bytes that the opcode's mode consumes do not all follow. -/
  | truncated (op : Byte)
  /-- The pair is not one R66 lists; the table holds no such pair, so no bytes are rejected so. -/
  | noForm (d : Descriptor)
deriving DecidableEq, Repr

/-- The instruction that the bytes begin with, and the bytes after it (R62 to R66). -/
def decode : List Byte → Except DecodeFailure (Instr × List Byte)
  | [] => .error .noBytes
  | op :: bytes =>
    match descriptor op with
    | none => .error (.noDescriptor op)
    | some d =>
      match takeOperand d.mode bytes with
      | none => .error (.truncated op)
      | some (o, rest) =>
        match assemble d.mnemonic o with
        | none => .error (.noForm d)
        | some i => .ok (i, rest)

/-! ## The encoder -/

/-- The opcode byte of an instruction (R66). -/
def Instr.opcode : Instr → Byte
  | .ldaImm _ => 0xA9#8
  | .ldaZp _ => 0xA5#8
  | .ldaZpX _ => 0xB5#8
  | .ldaAbs _ => 0xAD#8
  | .ldaIndX _ => 0xA1#8
  | .ldaIndY _ => 0xB1#8
  | .ldxImm _ => 0xA2#8
  | .ldxZp _ => 0xA6#8
  | .ldxAbs _ => 0xAE#8
  | .ldyImm _ => 0xA0#8
  | .ldyZp _ => 0xA4#8
  | .ldyZpX _ => 0xB4#8
  | .ldyAbs _ => 0xAC#8
  | .staZp _ => 0x85#8
  | .staZpX _ => 0x95#8
  | .staAbs _ => 0x8D#8
  | .staIndX _ => 0x81#8
  | .staIndY _ => 0x91#8
  | .stxZp _ => 0x86#8
  | .stxAbs _ => 0x8E#8
  | .styZp _ => 0x84#8
  | .styZpX _ => 0x94#8
  | .styAbs _ => 0x8C#8
  | .tax => 0xAA#8
  | .tay => 0xA8#8
  | .txa => 0x8A#8
  | .tya => 0x98#8
  | .incZp _ => 0xE6#8
  | .incZpX _ => 0xF6#8
  | .incAbs _ => 0xEE#8
  | .decZp _ => 0xC6#8
  | .decZpX _ => 0xD6#8
  | .decAbs _ => 0xCE#8
  | .inx => 0xE8#8
  | .iny => 0xC8#8
  | .dex => 0xCA#8
  | .dey => 0x88#8
  | .jmp _ => 0x4C#8
  | .jsr _ => 0x20#8
  | .rts => 0x60#8
  | .bpl _ => 0x10#8
  | .bmi _ => 0x30#8
  | .bcc _ => 0x90#8
  | .bcs _ => 0xB0#8
  | .bne _ => 0xD0#8
  | .beq _ => 0xF0#8
  | .cmpImm _ => 0xC9#8
  | .cmpZp _ => 0xC5#8
  | .cmpZpX _ => 0xD5#8
  | .cmpAbs _ => 0xCD#8
  | .cmpIndX _ => 0xC1#8
  | .cmpIndY _ => 0xD1#8
  | .cpxImm _ => 0xE0#8
  | .cpxZp _ => 0xE4#8
  | .cpxAbs _ => 0xEC#8
  | .cpyImm _ => 0xC0#8
  | .cpyZp _ => 0xC4#8
  | .cpyAbs _ => 0xCC#8
  | .andImm _ => 0x29#8
  | .andZp _ => 0x25#8
  | .andZpX _ => 0x35#8
  | .andAbs _ => 0x2D#8
  | .andIndX _ => 0x21#8
  | .andIndY _ => 0x31#8
  | .bitZp _ => 0x24#8
  | .bitAbs _ => 0x2C#8
  | .lsrA => 0x4A#8
  | .lsrZp _ => 0x46#8
  | .lsrZpX _ => 0x56#8
  | .lsrAbs _ => 0x4E#8
  | .adcImm _ => 0x69#8
  | .adcZp _ => 0x65#8
  | .adcZpX _ => 0x75#8
  | .adcAbs _ => 0x6D#8
  | .adcIndX _ => 0x61#8
  | .adcIndY _ => 0x71#8
  | .sbcImm _ => 0xE9#8
  | .sbcZp _ => 0xE5#8
  | .sbcZpX _ => 0xF5#8
  | .sbcAbs _ => 0xED#8
  | .sbcIndX _ => 0xE1#8
  | .sbcIndY _ => 0xF1#8
  | .clc => 0x18#8
  | .sec => 0x38#8
  | .nop => 0xEA#8
  | .brk => 0x00#8

/-- The operand's bytes, in the order they follow the opcode (R62, R65). -/
def Operand.bytes : Operand → List Byte
  | .implicit => []
  | .relative offset => [offset]
  | .immediate b => [b]
  | .zeroPage b => [b]
  | .zeroPageX b => [b]
  | .absolute addr => [loByte addr, hiByte addr]
  | .indexedIndirect b => [b]
  | .indirectIndexed b => [b]

/-- The bytes of an instruction, in increasing address order (R62). -/
def encode (i : Instr) : List Byte := i.opcode :: i.operand.bytes

/-! ## Words numbered as spec/opcode_table.json numbers them -/

/-- The `count` bytes of `w` from its least significant byte up: the order the hardware stores an instruction in. -/
def tableBytes : Nat → Nat → List Byte
  | 0, _ => []
  | count + 1, w => BitVec.ofNat 8 w :: tableBytes count (w / 256)

/-- The longest instruction's bytes (R62) for a table word of `nbits` bits: the bits above `nbits` are 0. -/
def tableWordBytes (nbits w : Nat) : List Byte := tableBytes 3 (w % 2 ^ nbits)

/-- The instruction the decoder reads from an instruction whose bits are `w`. -/
def decodeTableWord (nbits w : Nat) : Option Instr :=
  match decode (tableWordBytes nbits w) with
  | .ok (i, _) => some i
  | .error _ => none

end Sys2Proof
end

