-- ==== Sys2Proof/Machine/Fetch.lean ====
section
/-! DEFINITION. Fetching one instruction (R82), placing one in memory, and reading the bytes at an address. -/

namespace Sys2Proof.Machine

/-- The first part of `Step()`: the opcode is fetched, then the operand bytes its mode consumes, one `FetchNext` each
(R37, R82). An opcode with no descriptor halts the core after its one byte: the answer is none, with the halted state. A
known opcode's operand bytes always decode (Laws/Fetch.lean), so the last arm is never taken. -/
def fetchInstr (s : State) : Option Instr × State :=
  match descriptor (fetchNext s).1 with
  | none => (none, raiseDecodeError (fetchNext s).1 s.pc (fetchNext s).2)
  | some d =>
    match decode ((fetchNext s).1 :: (fetchBytes d.mode.operandCount (fetchNext s).2).1) with
    | .ok (i, _) => (some i, (fetchBytes d.mode.operandCount (fetchNext s).2).2)
    | .error _ => (none, raiseDecodeError (fetchNext s).1 s.pc (fetchNext s).2)

/-- Bytes written to the base store at consecutive addresses, wrapping at 64 KiB (R40, R62). -/
def placeBytes (a : Word) : List Byte → State → State
  | [], s => s
  | b :: bytes, s => placeBytes (a + 1#16) bytes (baseWrite a b s)

/-- The `count` bytes of the base store from address `a` on, wrapping at 64 KiB (R62). -/
def bytesAt (a : Word) : Nat → State → List Byte
  | 0, _ => []
  | count + 1, s => baseRead a s :: bytesAt (a + 1#16) count s

end Sys2Proof.Machine
end

