-- ==== Sys2Proof/Machine/Step.lean ====
section
/-! DEFINITION. One `STEP()` of the core (R6, R82, R87), and the host's way to place an instruction where the next step
fetches it. -/

namespace Sys2Proof.Machine

/-- `STEP()`: while Running, one fetch-decode-execute step (R82); while Halted, nothing changes (R87). -/
def step (s : State) : Host.Outcome State Fault Refusal :=
  match s.run with
  | .halted _ => .next s
  | .running =>
    match fetchInstr s.markStarted with
    | (some i, fetched) => exec i fetched
    | (none, halted) => .next halted

/-- The state with the table word's instruction (zeros above it, three bytes in all) in the base store at `pc`, Running:
it stands for the host's `LOAD` (log 6). Where `pc` leads the fetch over 0x00FE or 0x00FF those bytes are draws whatever
the store holds (R61). -/
def State.withFetchWord (s : State) (nbits w : Nat) : State :=
  (placeBytes s.pc (tableWordBytes nbits w) s).putRun .running

end Sys2Proof.Machine
end

