-- ==== Sys2Proof/WellFormed.lean ====
section
/-! DEFINITION. What is well formed: a (mnemonic, mode) pair whose mode the instruction's own rule lists under
"Operands" (R90 to R127), and a program that `LOAD` takes (R11, R40). Every operand byte and word is legal, so every
term of `Instr` is well formed; what the checks turn away are pairs no instruction has and programs that are too long. -/

namespace Sys2Proof

/-- The modes each instruction's rule lists under "Operands" (R90 to R127). -/
def Mnemonic.operands : Mnemonic → List Mode
  | .lda => [.immediate, .zeroPage, .zeroPageX, .absolute, .indexedIndirect, .indirectIndexed]
  | .ldx => [.immediate, .zeroPage, .absolute]
  | .ldy => [.immediate, .zeroPage, .zeroPageX, .absolute]
  | .sta => [.zeroPage, .zeroPageX, .absolute, .indexedIndirect, .indirectIndexed]
  | .stx => [.zeroPage, .absolute]
  | .sty => [.zeroPage, .zeroPageX, .absolute]
  | .tax => [.implicit]
  | .tay => [.implicit]
  | .txa => [.implicit]
  | .tya => [.implicit]
  | .inc => [.zeroPage, .zeroPageX, .absolute]
  | .dec => [.zeroPage, .zeroPageX, .absolute]
  | .inx => [.implicit]
  | .iny => [.implicit]
  | .dex => [.implicit]
  | .dey => [.implicit]
  | .jmp => [.absolute]
  | .jsr => [.absolute]
  | .rts => [.implicit]
  | .bpl => [.relative]
  | .bmi => [.relative]
  | .bcc => [.relative]
  | .bcs => [.relative]
  | .bne => [.relative]
  | .beq => [.relative]
  | .cmp => [.immediate, .zeroPage, .zeroPageX, .absolute, .indexedIndirect, .indirectIndexed]
  | .cpx => [.immediate, .zeroPage, .absolute]
  | .cpy => [.immediate, .zeroPage, .absolute]
  | .and => [.immediate, .zeroPage, .zeroPageX, .absolute, .indexedIndirect, .indirectIndexed]
  | .bit => [.zeroPage, .absolute]
  | .lsr => [.implicit, .zeroPage, .zeroPageX, .absolute]
  | .adc => [.immediate, .zeroPage, .zeroPageX, .absolute, .indexedIndirect, .indirectIndexed]
  | .sbc => [.immediate, .zeroPage, .zeroPageX, .absolute, .indexedIndirect, .indirectIndexed]
  | .clc => [.implicit]
  | .sec => [.implicit]
  | .nop => [.implicit]
  | .brk => [.implicit]

/-- The pair is one the instruction's rule gives. -/
def Descriptor.wellFormed (d : Descriptor) : Bool := d.mnemonic.operands.contains d.mode

/-- The instruction's pair is one its rule gives. -/
def Instr.wellFormed (i : Instr) : Bool := i.descriptor.wellFormed

/-- P_PROGRAM is at most 0xFA00 bytes long, so that it ends by 0xFFFF (R11, R40). -/
def programWellFormed (bytes : List Byte) : Bool := decide (bytes.length ≤ Machine.maxProgramLength)

end Sys2Proof
end

