-- ==== Sys2Proof/Machine/Transactions.lean ====
section
/-! DEFINITION. The host control interface besides `STEP()` (R6, R141): `LOAD`, `RUN` and `INSPECT`, and the codes of the
halt reasons (R129). -/

namespace Sys2Proof.Machine

/-- `LOAD(bytes)`: the bytes written to the base store from 0x0600 on, `pc` not changed and no `FB_UPDATE` issued. It is
taken only before the first `STEP`, and only up to 0xFA00 bytes (R40, R141; 93 I7 and I8).
The order of the two checks and the refusals' names are the model's choice. Log 13. -/
def loadProgram (bytes : List Byte) (s : State) : Result :=
  if s.started then .refused .loadAfterFirstStep
  else if programWellFormed bytes then .next (placeBytes programOrigin bytes s)
  else .refused (.programTooLong bytes.length)

/-- Whether the core is Halted (R27). -/
def State.isHalted (s : State) : Bool :=
  match s.run with
  | .running => false
  | .halted _ => true

/-- `RUN()` under fuel: `STEP()` repeated until Halted; none for a run that has not ended after `fuel` steps (R88). -/
def runUntilHalted : Nat → State → Option State
  | 0, s => if s.isHalted then some s else none
  | fuel + 1, s =>
    if s.isHalted then some s
    else
      match step s with
      | .next t => runUntilHalted fuel t
      | .fault _ => none
      | .refused _ => none

/-- What `INSPECT()` shows (R139). -/
structure Inspection where
  a : Byte
  x : Byte
  y : Byte
  c : Bool
  n : Bool
  z : Bool
  pc : Word
  sp : Byte
  mem : Memory
  run : RunState
deriving DecidableEq, Repr

/-- `INSPECT()`: the whole state of 10_state.md, without a side effect (R6, R139). -/
def inspect (s : State) : Inspection := ⟨s.a, s.x, s.y, s.c, s.n, s.z, s.pc, s.sp, s.mem, s.run⟩

/-- The cause code of a halt reason (R129). -/
def HaltReason.code : HaltReason → Nat
  | .stop => 0
  | .decodeError _ _ => 1

end Sys2Proof.Machine
end

