-- ==== Sys2Proof/Safety.lean ====
section
/-! DEFINITION. The terms the statements use: the invariant of the machine, how a run ends, which addresses are plain to
read, and what the spec's tables say each instruction writes and reads. -/

namespace Sys2Proof.Machine

/-! ## Runs -/

/-- The machine's invariant: the base store is in canonical form, and a core that is Halted has run a `STEP` (so no
`LOAD` follows a halt, R40, R87). -/
def State.Inv (s : State) : Prop := Memory.wf s.mem = true ∧ (s.isHalted = true → s.started = true)

/-- The run has ended normally: the designated stop instruction was reached (R89, R126). -/
def endedNormally (s : State) : Prop := s.run = .halted .stop

/-- The run has ended in error, at the opcode `op` fetched from `addr` (R89, R128). -/
def endedInError (op : Byte) (addr : Word) (s : State) : Prop := s.run = .halted (.decodeError op addr)

/-! ## Reads -/

/-- An address whose reads the base store answers (R42). -/
def plainAddress (a : Word) : Prop := a ≠ randAddress ∧ a ≠ keyAddress

/-! ## The descriptor table, by mnemonic -/

/-- The opcode bytes that decode to the mnemonic, and their modes, are exactly those listed (R66). -/
def DecodesExactly (m : Mnemonic) (forms : List (Byte × Mode)) : Prop :=
  ∀ (op : Byte) (mode : Mode), descriptor op = some ⟨m, mode⟩ ↔ (op, mode) ∈ forms

end Sys2Proof.Machine

namespace Sys2Proof

/-! ## The table of R22 -/

/-- One row of R22's table: which registers and flags the instruction writes, and which flags it reads. -/
structure Access where
  writesA : Bool := false
  writesX : Bool := false
  writesY : Bool := false
  writesC : Bool := false
  writesNZ : Bool := false
  readsC : Bool := false
  readsN : Bool := false
  readsZ : Bool := false
deriving DecidableEq, Repr

/-- R22's table. LSR has two rows, by its mode. -/
def Instr.access (i : Instr) : Access :=
  match i.mnemonic with
  | .lda => { writesA := true, writesNZ := true }
  | .ldx => { writesX := true, writesNZ := true }
  | .ldy => { writesY := true, writesNZ := true }
  | .sta => {}
  | .stx => {}
  | .sty => {}
  | .tax => { writesX := true, writesNZ := true }
  | .tay => { writesY := true, writesNZ := true }
  | .txa => { writesA := true, writesNZ := true }
  | .tya => { writesA := true, writesNZ := true }
  | .inc => { writesNZ := true }
  | .dec => { writesNZ := true }
  | .inx => { writesX := true, writesNZ := true }
  | .dex => { writesX := true, writesNZ := true }
  | .iny => { writesY := true, writesNZ := true }
  | .dey => { writesY := true, writesNZ := true }
  | .jmp => {}
  | .jsr => {}
  | .rts => {}
  | .bpl => { readsN := true }
  | .bmi => { readsN := true }
  | .bcc => { readsC := true }
  | .bcs => { readsC := true }
  | .bne => { readsZ := true }
  | .beq => { readsZ := true }
  | .cmp => { writesC := true, writesNZ := true }
  | .cpx => { writesC := true, writesNZ := true }
  | .cpy => { writesC := true, writesNZ := true }
  | .and => { writesA := true, writesNZ := true }
  | .bit => { writesNZ := true }
  | .lsr =>
    match i.operand.mode with
    | .implicit => { writesA := true, writesC := true, writesNZ := true }
    | _ => { writesC := true, writesNZ := true }
  | .adc => { writesA := true, writesC := true, writesNZ := true, readsC := true }
  | .sbc => { writesA := true, writesC := true, writesNZ := true, readsC := true }
  | .clc => { writesC := true }
  | .sec => { writesC := true }
  | .nop => {}
  | .brk => {}

end Sys2Proof

namespace Sys2Proof.Machine

/-! ## What an instruction stores -/

/-- The addresses whose byte the instruction stores, computed as its meaning computes them: the effective address for a
store or a read-modify-write form, the two stack bytes for JSR, none for any other (R93 to R95, R100, R101, R107, R120). -/
def storedAddresses (i : Instr) (s : State) : List Word :=
  match i.mnemonic with
  | .sta | .stx | .sty | .inc | .dec | .lsr => (resolve i.operand s).1.toList
  | .jsr => [stackAddress s.sp, stackAddress (s.sp - 1#8)]
  | .lda | .ldx | .ldy | .tax | .tay | .txa | .tya | .inx | .iny | .dex | .dey | .jmp | .rts | .bpl | .bmi | .bcc | .bcs
  | .bne | .beq | .cmp | .cpx | .cpy | .and | .bit | .adc | .sbc | .clc | .sec | .nop | .brk => []

/-- In `t` the cell at `ea` holds `v`, and every other cell holds what it held in `s` (R34). -/
def OnlyCellWritten (ea : Word) (v : Byte) (s t : State) : Prop :=
  ∀ a, baseRead a t = if a = ea then v else baseRead a s

/-! ## An instruction's operand, and flags as numbers -/

/-- The instruction's effective address from `s` is `ea`, the one-byte read there gives `m`, and the reads of the
resolution and of `ea` leave `s2` (R14, R72). -/
def ReadsOperand (i : Instr) (s : State) (ea : Word) (m : Byte) (s2 : State) : Prop :=
  ∃ s1, resolve i.operand s = (some ea, s1) ∧ memRead ea s1 = (m, s2)

/-- Bit 7 of a byte: the byte is 0x80..0xFF (R17). -/
def isNegative (v : Byte) : Bool := decide (0x80 ≤ v.toNat)

/-- The byte is 0 (R17). -/
def isZero (v : Byte) : Bool := decide (v.toNat = 0)

/-- The signed value of an offset byte (R74). -/
def signedOffset (b : Byte) : Int := if b.toNat < 128 then b.toNat else (b.toNat : Int) - 256

/-! ## Collaborator calls -/

/-- The calls after a write of `v` at `ea`: one `FB_UPDATE` more when `ea` is in 0x0200..0x05FF (R45, R46). -/
def callsAfterWrite (ea : Word) (v : Byte) (calls : List Call) : List Call :=
  if 0x0200 ≤ ea.toNat ∧ ea.toNat ≤ 0x05FF then
    .fbUpdate (ea.toNat % 32) ((ea.toNat - 0x0200) / 32) (v.toNat % 16) :: calls
  else calls

/-- A `RAND()` call. -/
def Call.isRand : Call → Bool
  | .rand _ => true
  | .key _ => false
  | .fbUpdate _ _ _ => false

/-- A `KEY()` call. -/
def Call.isKey : Call → Bool
  | .rand _ => false
  | .key _ => true
  | .fbUpdate _ _ _ => false

/-- The answer of a `RAND()` call. -/
def Call.randAnswer : Call → Option Byte
  | .rand answer => some answer
  | .key _ => none
  | .fbUpdate _ _ _ => none

/-- The answer of a `KEY()` call. -/
def Call.keyAnswer : Call → Option Byte
  | .rand _ => none
  | .key answer => some answer
  | .fbUpdate _ _ _ => none

/-- The arguments of an `FB_UPDATE` call are in the ranges of R7. -/
def Call.inRange : Call → Prop
  | .rand _ => True
  | .key _ => True
  | .fbUpdate x y colour => x < 32 ∧ y < 32 ∧ colour < 16

/-! ## The stack, several bytes at a time -/

/-- Bytes pushed one after the other, the first first (R48, R50). -/
def pushAll : List Byte → State → State
  | [], s => s
  | v :: vs, s => pushAll vs (push v s)

/-- `count` bytes pulled one after the other, the first pulled first (R49, R50). -/
def pullAll : Nat → State → List Byte × State
  | 0, s => ([], s)
  | count + 1, s => ((pull s).1 :: (pullAll count (pull s).2).1, (pullAll count (pull s).2).2)

end Sys2Proof.Machine
end

