-- ==== Sys2Proof/Certificates/Slice0/Obligations.lean ====
section
/-! DEFINITION. The statements for the provers. Every `exec` statement starts where the instruction's bytes have been
fetched, so `pc` is the address after them (R23); `StepRunsTheDecodedInstruction` and
`StepFetchesEveryByteThroughTheDecorator` carry it to a step. -/

open Sys2Proof Sys2Proof.Machine

/-- State.reset has A = X = Y = 0x00, C = N = Z = 0, sp = 0xFF, pc = 0x0600, every cell of the base store 0x00, run =
Running, and no collaborator call has been made; LOAD of a program of at most 0xFA00 bytes then leaves that state but
for the cells at 0x0600 + i, which hold its bytes. That pc starts at 0x0600 and that every flag starts at 0 are the
spec's own decisions D4 and D5. (10_state.md section 6, R32, 70_reset_and_hazards.md section 1, R142,
92_eei_decisions.md D4, D5) -/
def Obligations.ResetLeavesTheStateOfTheSpec : Prop :=
  State.reset.a = 0x00 ∧ State.reset.x = 0x00 ∧ State.reset.y = 0x00 ∧
  State.reset.c = false ∧ State.reset.n = false ∧ State.reset.z = false ∧
  State.reset.sp = 0xFF ∧ State.reset.pc = 0x0600 ∧ State.reset.run = .running ∧ State.reset.calls = [] ∧
  (∀ a, baseRead a State.reset = 0x00) ∧
  ∀ program : List Byte, program.length ≤ 0xFA00 →
    ∃ t, loadProgram program State.reset = .next t ∧ t = { State.reset with mem := t.mem } ∧
      ∀ a : Word, baseRead a t =
        if 0x0600 ≤ a.toNat then program.getD (a.toNat - 0x0600) 0x00#8 else 0x00#8

/-- State.Inv holds at State.reset: the base store is in canonical form, and the core is not Halted without having run a
STEP. (10_state.md section 6, 20_memory.md section 1) -/
def Obligations.ResetMeetsTheInvariant : Prop :=
  State.reset.Inv

/-- From every state that meets State.Inv (the list that stands for the base store is strictly rising, legal and lists no
0x00 cell; a Halted core has run a STEP), a step that answers a next state answers one that meets it. (R26, R34, R40,
R87) -/
def Obligations.EveryStepKeepsTheInvariant : Prop :=
  ∀ s t : State, s.Inv → step s = .next t → t.Inv

/-- For every instruction, with every operand at every value, decode of encode i followed by any bytes is i and those
bytes. (R62, R63, R65, R66) -/
def Obligations.DecodingInvertsEncoding : Prop :=
  ∀ (i : Instr) (rest : List Byte), decode (encode i ++ rest) = .ok (i, rest)

/-- If decode answers the instruction i and the bytes rest, then the decoded bytes are encode i followed by rest: no two
different byte strings stand for one instruction. (R62, R64, R65, R66) -/
def Obligations.EncodingInvertsDecoding : Prop :=
  ∀ (bytes rest : List Byte) (i : Instr), decode bytes = .ok (i, rest) → bytes = encode i ++ rest

/-- The bytes of R70's examples and of one instruction more per family decode to the instruction they stand for.
(30_encoding.md section 3, 30_encoding.md section 5) -/
def Obligations.SpecWordsDecodeToTheirInstructions : Prop :=
  decode [0xE8] = .ok (.inx, []) ∧ decode [0xA9, 0x02] = .ok (.ldaImm 0x02, []) ∧
  decode [0x85, 0x02] = .ok (.staZp 0x02, []) ∧ decode [0xB5, 0x10] = .ok (.ldaZpX 0x10, []) ∧
  decode [0x8D, 0x00, 0x02] = .ok (.staAbs 0x0200, []) ∧ decode [0xD0, 0xFA] = .ok (.bne 0xFA, []) ∧
  decode [0x81, 0x10] = .ok (.staIndX 0x10, []) ∧ decode [0x91, 0x00] = .ok (.staIndY 0x00, []) ∧
  decode [0x20, 0x06, 0x06] = .ok (.jsr 0x0606, []) ∧ decode [0xC9, 0x77] = .ok (.cmpImm 0x77, []) ∧
  decode [0x4A] = .ok (.lsrA, []) ∧ decode [0x69, 0x02] = .ok (.adcImm 0x02, []) ∧ decode [0x00] = .ok (.brk, [])

/-- For every instruction, the number of its bytes is 1 in Implicit mode, 3 in Absolute mode and 2 in the six others, its
opcode byte alone gives that mode, and a running core that fetches a byte with no descriptor ends the step after that
one byte. (R63) -/
def Obligations.InstructionLengthIsFixedByTheMode : Prop :=
  (∀ i : Instr,
    (encode i).length =
      (match i.operand.mode with
        | .implicit => 1
        | .relative | .immediate | .zeroPage | .zeroPageX | .indexedIndirect | .indirectIndexed => 2
        | .absolute => 3) ∧
    (descriptor i.opcode).map (fun d => d.mode) = some i.operand.mode) ∧
  ∀ s : State, s.run = .running → descriptor (fetchNext s.markStarted).1 = none →
    ∃ t, step s = .next t ∧ t.pc = s.pc + 1#16

/-- Of the 256 bytes exactly 170 have no descriptor, and decode rejects such a byte by name whatever follows it. (R66,
R68) -/
def Obligations.OneHundredSeventyBytesAreUndecoded : Prop :=
  ((List.range 256).filter fun k => (descriptor (BitVec.ofNat 8 k)).isNone).length = 170 ∧
  ∀ (op : Byte) (rest : List Byte), descriptor op = none → decode (op :: rest) = .error (.noDescriptor op)

/-- In a Running state whose bytes at pc decode to a well-formed instruction i, with every byte of it at a plain address,
step is exec of i at that state with pc moved past i's bytes and the model's own mark that a STEP has run. (R23, R37,
R82) -/
def Obligations.StepRunsTheDecodedInstruction : Prop :=
  ∀ (s : State) (i : Instr) (rest : List Byte), s.run = .running →
    decode (bytesAt s.pc 3 s) = .ok (i, rest) → i.wellFormed = true →
    (∀ k, k < i.length → plainAddress (s.pc + BitVec.ofNat 16 k)) →
    step s = exec i { s with pc := s.pc + BitVec.ofNat 16 i.length, started := true }

/-- In a Running state, wherever pc points (0x00FE and 0x00FF included), when the fetched opcode byte has a descriptor,
the opcode and exactly as many fetched bytes as its mode consumes decode to an instruction of that descriptor, and
step is exec of it in the state the fetches left, whose pc is past the instruction. (R37, R42, R61, R82) -/
def Obligations.StepFetchesEveryByteThroughTheDecorator : Prop :=
  ∀ (s : State) (d : Descriptor), s.run = .running → descriptor (fetchNext s.markStarted).1 = some d →
    ∃ i, i.descriptor = d ∧
      decode ((fetchNext s.markStarted).1 :: (fetchBytes d.mode.operandCount (fetchNext s.markStarted).2).1) =
        .ok (i, []) ∧
      step s = exec i (fetchBytes d.mode.operandCount (fetchNext s.markStarted).2).2 ∧
      (fetchBytes d.mode.operandCount (fetchNext s.markStarted).2).2.pc = s.pc + BitVec.ofNat 16 i.length

/-- In a Running state whose fetched byte op has no descriptor, the step gives a next state that is Halted(DecodeError(op,
addr)), addr the address op was fetched from, with pc = addr + 1, registers, flags, sp and memory as before, and no
collaborator call but what the one fetch made. Which address is recorded, and pc after it, are the spec's own decision
D21. (60_exceptions.md section 1, R128, 92_eei_decisions.md D21) -/
def Obligations.UndecodedOpcodeHaltsTheCore : Prop :=
  ∀ s : State, s.run = .running → descriptor (fetchNext s.markStarted).1 = none →
    ∃ t, step s = .next t ∧ t.run = .halted (.decodeError (fetchNext s.markStarted).1 s.pc) ∧
      t.pc = s.pc + 1#16 ∧ t.a = s.a ∧ t.x = s.x ∧ t.y = s.y ∧ t.c = s.c ∧ t.n = s.n ∧ t.z = s.z ∧ t.sp = s.sp ∧
      t.mem = s.mem ∧ t.calls = (memRead s.pc s).2.calls

/-- In every Halted state step answers that same state. (41_execution_loop.md section 2, 60_exceptions.md section 6) -/
def Obligations.HaltedIsAbsorbing : Prop :=
  ∀ (s : State) (r : HaltReason), s.run = .halted r → step s = .next s

/-- From every state whatever, step answers a next state: no memory access, arithmetic, stack operation or fetch faults.
(R36, R129, R135) -/
def Obligations.EveryStepGivesANextState : Prop :=
  ∀ s : State, ∃ t, step s = .next t

/-- When a step from a Running state gives a next state, that state is Running, or the fetched opcode byte was 0x00 (BRK)
and it is Halted(Stop), or the fetched byte op has no descriptor and it is Halted(DecodeError(op, pc)). (R126, R128,
R129, R130) -/
def Obligations.OnlyBrkAndDecodeErrorsHalt : Prop :=
  ∀ s t : State, s.run = .running → step s = .next t →
    t.run = .running ∨
    ((fetchNext s.markStarted).1 = 0x00#8 ∧ t.run = .halted .stop) ∨
    (descriptor (fetchNext s.markStarted).1 = none ∧
      t.run = .halted (.decodeError (fetchNext s.markStarted).1 s.pc))

/-- When an instruction gives a next state (from pc after its bytes): JMP and JSR leave pc at their effective address, RTS
at the word it pulls, a conditional branch at pc or at its effective address, and every other instruction leaves pc
alone. (R24, R86) -/
def Obligations.ProgramCounterAfterAnInstruction : Prop :=
  ∀ (i : Instr) (s t : State), exec i s = .next t →
    match i.mnemonic with
    | .jmp | .jsr => (resolve i.operand s).1 = some t.pc
    | .rts => t.pc.toNat = (baseRead (stackAddress (s.sp + 1#8)) s).toNat * 256 + (baseRead (stackAddress (s.sp + 2#8)) s).toNat
    | .bpl | .bmi | .bcc | .bcs | .bne | .beq => t.pc = s.pc ∨ (resolve i.operand s).1 = some t.pc
    | _ => t.pc = s.pc

/-- For every instruction that gives a next state: A, X, Y, C and the pair N, Z are each unchanged unless R22's row for
the instruction (LSR's by its mode) marks it written. (10_state.md section 2, R22) -/
def Obligations.RegistersAndFlagsKeptByTheTable : Prop :=
  ∀ (i : Instr) (s t : State), exec i s = .next t →
    (i.access.writesA = false → t.a = s.a) ∧ (i.access.writesX = false → t.x = s.x) ∧
    (i.access.writesY = false → t.y = s.y) ∧ (i.access.writesC = false → t.c = s.c) ∧
    (i.access.writesNZ = false → t.n = s.n ∧ t.z = s.z)

/-- For every instruction and each of C, N and Z that R22's row does not mark read: changing that flag before the
instruction changes nothing after it but the flag itself, and not even that where the instruction writes it.
(10_state.md section 2, R22) -/
def Obligations.FlagsNotReadDoNotMatter : Prop :=
  ∀ (i : Instr) (s t : State) (b : Bool), exec i s = .next t →
    (i.access.readsC = false →
      exec i { s with c := b } = .next { t with c := if i.access.writesC then t.c else b }) ∧
    (i.access.readsN = false →
      exec i { s with n := b } = .next { t with n := if i.access.writesNZ then t.n else b }) ∧
    (i.access.readsZ = false →
      exec i { s with z := b } = .next { t with z := if i.access.writesNZ then t.z else b })

/-- When an instruction gives a next state: JSR leaves sp two lower and RTS two higher, both wrapping, and every other
instruction leaves sp alone; run is Halted(Stop) after BRK and unchanged after every other instruction; the model's
own mark that a STEP has run is unchanged. (R25, R31, R40, R126) -/
def Obligations.StackPointerAndRunStateFrame : Prop :=
  ∀ (i : Instr) (s t : State), exec i s = .next t →
    (t.sp = if i.mnemonic = .jsr then s.sp - 2#8 else if i.mnemonic = .rts then s.sp + 2#8 else s.sp) ∧
    (t.run = if i.mnemonic = .brk then .halted .stop else s.run) ∧ t.started = s.started

/-- For every instruction that gives a next state and every address: unless the address is one the instruction stores to
(the effective address of STA, STX, STY, INC, DEC and LSR on memory; JSR's two stack bytes; none for any other), its
cell holds what it held. (R34, R93, R94, R95, R100, R101, R107, R120) -/
def Obligations.MemoryKeptOutsideTheStoredBytes : Prop :=
  ∀ (i : Instr) (s t : State) (a : Word), exec i s = .next t → a ∉ storedAddresses i s →
    baseRead a t = baseRead a s

/-- For every operand, address and state, the state after the resolution, and after a one-byte read, is the state before
but for the model's own record of RAND() and KEY() calls. (R30, R42, R57, R72) -/
def Obligations.ReadsChangeOnlyTheCallRecord : Prop :=
  ∀ (o : Operand) (a : Word) (s : State),
    (∃ r k calls, (resolve o s).2 = { s with randCalls := r, keyCalls := k, calls := calls }) ∧
    ∃ r k calls, (memRead a s).2 = { s with randCalls := r, keyCalls := k, calls := calls }

/-- MemRead at 0x00FE returns the next RAND() answer, at 0x00FF the next KEY() answer, each recorded as one call and
changing nothing else, the stored byte included; at every other address it returns the stored byte and changes
nothing. The answers are free values: the statement holds whatever they are. Which reads are intercepted, and that
each answer is free, are the spec's own decisions D9, D10 and D11. (20_memory.md section 4, R42 to R44,
92_eei_decisions.md D9, D10, D11) -/
def Obligations.InterceptedReadsAreCollaboratorCalls : Prop :=
  ∀ s : State,
    memRead 0x00FE#16 s = (Config.randAnswer s.randCalls,
      { s with randCalls := s.randCalls + 1, calls := .rand (Config.randAnswer s.randCalls) :: s.calls }) ∧
    memRead 0x00FF#16 s = (Config.keyAnswer s.keyCalls,
      { s with keyCalls := s.keyCalls + 1, calls := .key (Config.keyAnswer s.keyCalls) :: s.calls }) ∧
    ∀ a : Word, a ≠ 0x00FE#16 → a ≠ 0x00FF#16 → memRead a s = (baseRead a s, s)

/-- After BaseWrite(a, v) the cell at a holds v, every other cell holds what it held, and nothing but the base store has
changed. (R34) -/
def Obligations.BaseStoreReadAfterWrite : Prop :=
  ∀ (a : Word) (v : Byte) (s : State),
    OnlyCellWritten a v s (baseWrite a v s) ∧ baseWrite a v s = { s with mem := (baseWrite a v s).mem }

/-- After MemWrite(a, 1, v) the cell at a holds v and every other cell what it held; one FB_UPDATE((a mod 32), (a -
0x0200) div 32, v mod 16) more is recorded when a is in 0x0200..0x05FF, none otherwise; nothing else has changed, and
a read of the range issues nothing. (R45, R46) -/
def Obligations.DecoratedWritesReachTheStoreAndReportPixels : Prop :=
  (∀ (a : Word) (v : Byte) (s : State),
    OnlyCellWritten a v s (memWrite a v s) ∧
    memWrite a v s = { s with mem := (memWrite a v s).mem, calls := callsAfterWrite a v s.calls }) ∧
  ∀ (a : Word) (s : State), 0x0200 ≤ a.toNat → a.toNat ≤ 0x05FF → memRead a s = (baseRead a s, s)

/-- BaseRead after BaseWrite at one address returns the value written; MemRead after MemWrite does so at every address but
0x00FE and 0x00FF, where it returns the collaborator's answer whatever was stored. (R35) -/
def Obligations.WrittenByteReadsBackExceptAtIntercepts : Prop :=
  ∀ (a : Word) (v : Byte) (s : State),
    baseRead a (baseWrite a v s) = v ∧
    (a ≠ 0x00FE#16 → a ≠ 0x00FF#16 → (memRead a (memWrite a v s)).1 = v) ∧
    (memRead 0x00FE#16 (memWrite 0x00FE#16 v s)).1 = Config.randAnswer s.randCalls ∧
    (memRead 0x00FF#16 (memWrite 0x00FF#16 v s)).1 = Config.keyAnswer s.keyCalls

/-- Whatever the state, the calls a step adds to the record are put before the ones it held, and each FB_UPDATE among them
has x < 32, y < 32 and colour < 16. (R7, R46) -/
def Obligations.PixelCallsStayInRange : Prop :=
  ∀ s t : State, step s = .next t → ∃ new, t.calls = new ++ s.calls ∧ ∀ call ∈ new, Call.inRange call

/-- The calls a step adds to the record hold as many RAND() and KEY() calls as the two counters advance by, and in the
order they were made their answers are the free values at the counter's successive values. The counters and the record
are the model's own (logs 2 and 3). (R8, R43, R44, R59) -/
def Obligations.StepRecordsEveryDraw : Prop :=
  ∀ s t : State, step s = .next t →
    ∃ new, t.calls = new ++ s.calls ∧
      t.randCalls = s.randCalls + new.countP Call.isRand ∧ t.keyCalls = s.keyCalls + new.countP Call.isKey ∧
      new.reverse.filterMap Call.randAnswer =
        (List.range' s.randCalls (new.countP Call.isRand)).map Config.randAnswer ∧
      new.reverse.filterMap Call.keyAnswer =
        (List.range' s.keyCalls (new.countP Call.isKey)).map Config.keyAnswer

/-- After Push(v) the cell at 0x0100 + sp holds v, every other cell what it held, sp is one lower mod 256, and nothing
else has changed; Pull() returns the byte at 0x0100 + (sp + 1) mod 256, leaves sp there, and changes nothing else,
memory included. The order inside Pull is the spec's own decision D14. (R48, 20_memory.md section 5, R49,
92_eei_decisions.md D14) -/
def Obligations.PushAndPullMoveOneByte : Prop :=
  ∀ (v : Byte) (s : State),
    OnlyCellWritten (0x0100#16 + BitVec.ofNat 16 s.sp.toNat) v s (push v s) ∧
    ((push v s).sp.toNat : Int) = ((s.sp.toNat : Int) - 1) % 256 ∧
    push v s = { s with mem := (push v s).mem, sp := (push v s).sp } ∧
    (pull s).2.sp.toNat = (s.sp.toNat + 1) % 256 ∧
    (pull s).1 = baseRead (0x0100#16 + BitVec.ofNat 16 (pull s).2.sp.toNat) s ∧
    (pull s).2 = { s with sp := (pull s).2.sp }

/-- For any list of at most 256 bytes and any state: pulling as many bytes as were pushed returns them last pushed first
and restores sp; pushing 10, 20, 30 (decimal) and pulling three times gives 30, 20, 10; after 256 pushes sp is where
it was and one push more overwrites the first byte's cell. (R50) -/
def Obligations.StackIsLastInFirstOut : Prop :=
  (∀ (vs : List Byte) (s : State), vs.length ≤ 256 →
    (pullAll vs.length (pushAll vs s)).1 = vs.reverse ∧
    (pullAll vs.length (pushAll vs s)).2.sp = s.sp) ∧
  (∀ s : State, (pullAll 3 (pushAll [10, 20, 30] s)).1 = [30, 20, 10]) ∧
  ∀ (vs : List Byte) (v w : Byte) (s : State), (v :: vs).length = 256 →
    (pushAll (v :: vs) s).sp = s.sp ∧
    baseRead (stackAddress s.sp) (pushAll (v :: vs) s) = v ∧
    baseRead (stackAddress s.sp) (pushAll (v :: vs ++ [w]) s) = w

/-- From any state with program counter p0, callSubroutine(p) then callSubroutine(q) sets pc to q; one
returnFromSubroutine() restores pc to p and a second restores it to p0 and sp to its start, for the rule's 0x0606 and
0x060D and for every p and q. (R54) -/
def Obligations.NestedCallsReturnToTheirCallers : Prop :=
  ∀ (p q : Word) (s : State),
    (callSubroutine q (callSubroutine p s)).pc = q ∧
    (returnFromSubroutine (callSubroutine q (callSubroutine p s))).pc = p ∧
    (returnFromSubroutine (returnFromSubroutine (callSubroutine q (callSubroutine p s)))).pc = s.pc ∧
    (returnFromSubroutine (returnFromSubroutine (callSubroutine q (callSubroutine p s)))).sp = s.sp

/-- With pc after the instruction's bytes: Relative consumes one byte and gives (pc + signed offset) mod 65536; Zero Page
one byte, itself; Zero Page,X one byte, (b + X) mod 256; Absolute two bytes, low first, the word; Implicit none and no
address; Immediate one byte, the address before pc. Beyond those fetched bytes none of them reads memory, and none
changes the state. The wrap of Zero Page,X and the way Immediate consumes its byte are the spec's own decisions D6 and
D28. (R75, R77, R79, 40_addressing_modes.md section 2, R73, R76, R78, 92_eei_decisions.md D6, D28) -/
def Obligations.DirectModesResolve : Prop :=
  (Mode.implicit.operandCount = 0 ∧ Mode.relative.operandCount = 1 ∧ Mode.immediate.operandCount = 1 ∧
    Mode.zeroPage.operandCount = 1 ∧ Mode.zeroPageX.operandCount = 1 ∧ Mode.absolute.operandCount = 2) ∧
  (∀ (lo hi : Byte) (rest : List Byte), ∃ addr : Word, addr.toNat = hi.toNat * 256 + lo.toNat ∧
    takeOperand .absolute (lo :: hi :: rest) = some (.absolute addr, rest)) ∧
  ∀ s : State,
    resolve .implicit s = (none, s) ∧
    (∀ offset : Byte, ∃ ea, resolve (.relative offset) s = (some ea, s) ∧
      (ea.toNat : Int) = ((s.pc.toNat : Int) + signedOffset offset) % 65536) ∧
    (∀ b : Byte, ∃ ea, resolve (.immediate b) s = (some ea, s) ∧ ea + 1#16 = s.pc) ∧
    (∀ b : Byte, ∃ ea, resolve (.zeroPage b) s = (some ea, s) ∧ ea.toNat = b.toNat) ∧
    (∀ b : Byte, ∃ ea, resolve (.zeroPageX b) s = (some ea, s) ∧ ea.toNat = (b.toNat + s.x.toNat) % 256) ∧
    ∀ addr : Word, resolve (.absolute addr) s = (some addr, s)

/-- (zp,X) reads the low byte at p = (z + X) mod 256 and then the high byte at (p + 1) mod 256, each through the
decorator, and gives high * 256 + low; (zp),Y does so at p = z and gives that word plus Y, mod 65536. Each consumes
one byte. The wraps and the order of the two reads are the spec's own decisions D6, D7, D8 and D33.
(40_addressing_modes.md section 2, R80, R81, 92_eei_decisions.md D6, D7, D8, D33) -/
def Obligations.IndirectModesResolve : Prop :=
  (Mode.indexedIndirect.operandCount = 1 ∧ Mode.indirectIndexed.operandCount = 1) ∧
  ∀ (z : Byte) (s : State),
    (∃ ea lo hi s1 s2, resolve (.indexedIndirect z) s = (some ea, s2) ∧
      memRead (BitVec.ofNat 16 ((z.toNat + s.x.toNat) % 256)) s = (lo, s1) ∧
      memRead (BitVec.ofNat 16 (((z.toNat + s.x.toNat) % 256 + 1) % 256)) s1 = (hi, s2) ∧
      ea.toNat = hi.toNat * 256 + lo.toNat) ∧
    ∃ ea lo hi s1 s2, resolve (.indirectIndexed z) s = (some ea, s2) ∧
      memRead (BitVec.ofNat 16 z.toNat) s = (lo, s1) ∧
      memRead (BitVec.ofNat 16 ((z.toNat + 1) % 256)) s1 = (hi, s2) ∧
      ea.toNat = (hi.toNat * 256 + lo.toNat + s.y.toNat) % 65536

/-- For every integer n: NZ(n) returns n mod 256, sets Z exactly when that is 0 and N exactly when it is 0x80 or more, and
changes nothing else; SetReg(r, n) does the same and puts the byte in r, which is the only register it changes. (R16,
R17) -/
def Obligations.NormalizeAndRegisterWrite : Prop :=
  ∀ (n : Int) (s : State), ∃ m : Byte, (m.toNat : Int) = n % 256 ∧
    nz n s = (m, { s with n := isNegative m, z := isZero m }) ∧
    setReg .a n s = { s with a := m, n := isNegative m, z := isZero m } ∧
    setReg .x n s = { s with x := m, n := isNegative m, z := isZero m } ∧
    setReg .y n s = { s with y := m, n := isNegative m, z := isZero m }

/-- LDA, LDX and LDY decode from exactly their listed opcode bytes (0xB6 is not decoded); every form of each, from every
state, answers a next state in which its register holds the byte read at the effective address, N and Z are that
byte's, and nothing else differs from the state after the reads. (R90, R91, R92) -/
def Obligations.LoadsWriteRegisterAndFlags : Prop :=
  DecodesExactly .lda [(0xA9#8, .immediate), (0xA5#8, .zeroPage), (0xB5#8, .zeroPageX), (0xAD#8, .absolute), (0xA1#8, .indexedIndirect), (0xB1#8, .indirectIndexed)] ∧
  DecodesExactly .ldx [(0xA2#8, .immediate), (0xA6#8, .zeroPage), (0xAE#8, .absolute)] ∧
  DecodesExactly .ldy [(0xA0#8, .immediate), (0xA4#8, .zeroPage), (0xB4#8, .zeroPageX), (0xAC#8, .absolute)] ∧
  descriptor 0xB6#8 = none ∧
  (∀ (i : Instr) (s : State), i.mnemonic = .lda → ∃ ea m s2, ReadsOperand i s ea m s2 ∧
    exec i s = .next { s2 with a := m, n := isNegative m, z := isZero m }) ∧
  (∀ (i : Instr) (s : State), i.mnemonic = .ldx → ∃ ea m s2, ReadsOperand i s ea m s2 ∧
    exec i s = .next { s2 with x := m, n := isNegative m, z := isZero m }) ∧
  (∀ (i : Instr) (s : State), i.mnemonic = .ldy → ∃ ea m s2, ReadsOperand i s ea m s2 ∧
    exec i s = .next { s2 with y := m, n := isNegative m, z := isZero m })

/-- STA, STX and STY decode from exactly their listed opcode bytes (0x96 is not decoded); every form of each, from every
state, answers a next state in which the cell at the effective address holds the register, every other cell holds what
it held, one FB_UPDATE more is recorded for a framebuffer address, and nothing else differs from the state after the
resolution. (R93, R94, R95) -/
def Obligations.StoresWriteMemoryOnly : Prop :=
  DecodesExactly .sta [(0x85#8, .zeroPage), (0x95#8, .zeroPageX), (0x8D#8, .absolute), (0x81#8, .indexedIndirect), (0x91#8, .indirectIndexed)] ∧
  DecodesExactly .stx [(0x86#8, .zeroPage), (0x8E#8, .absolute)] ∧
  DecodesExactly .sty [(0x84#8, .zeroPage), (0x94#8, .zeroPageX), (0x8C#8, .absolute)] ∧
  descriptor 0x96#8 = none ∧
  (∀ (i : Instr) (s : State), i.mnemonic = .sta → ∃ ea s1 t, resolve i.operand s = (some ea, s1) ∧
    exec i s = .next t ∧ OnlyCellWritten ea s.a s t ∧
    t = { s1 with mem := t.mem, calls := callsAfterWrite ea s.a s1.calls }) ∧
  (∀ (i : Instr) (s : State), i.mnemonic = .stx → ∃ ea s1 t, resolve i.operand s = (some ea, s1) ∧
    exec i s = .next t ∧ OnlyCellWritten ea s.x s t ∧
    t = { s1 with mem := t.mem, calls := callsAfterWrite ea s.x s1.calls }) ∧
  (∀ (i : Instr) (s : State), i.mnemonic = .sty → ∃ ea s1 t, resolve i.operand s = (some ea, s1) ∧
    exec i s = .next t ∧ OnlyCellWritten ea s.y s t ∧
    t = { s1 with mem := t.mem, calls := callsAfterWrite ea s.y s1.calls })

/-- TAX, TAY, TXA and TYA decode from exactly AA, A8, 8A and 98; from every state each answers the next state in which the
target register holds the source's value, N and Z are that value's, and nothing else has changed. That the transfers
are decoded and set N and Z is the spec's own decision D18. (42_load_store.md section 3, R96 to R99,
92_eei_decisions.md D18) -/
def Obligations.TransfersCopyARegister : Prop :=
  DecodesExactly .tax [(0xAA#8, .implicit)] ∧
  DecodesExactly .tay [(0xA8#8, .implicit)] ∧
  DecodesExactly .txa [(0x8A#8, .implicit)] ∧
  DecodesExactly .tya [(0x98#8, .implicit)] ∧
  ∀ s : State,
    exec .tax s = .next { s with x := s.a, n := isNegative s.a, z := isZero s.a } ∧
    exec .tay s = .next { s with y := s.a, n := isNegative s.a, z := isZero s.a } ∧
    exec .txa s = .next { s with a := s.x, n := isNegative s.x, z := isZero s.x } ∧
    exec .tya s = .next { s with a := s.y, n := isNegative s.y, z := isZero s.y }

/-- INC and DEC decode from exactly their listed opcode bytes; every form, from every state, answers a next state in which
the cell at the effective address holds the byte read there plus or minus 1 mod 256, N and Z are that result's, every
other cell holds what it held, one FB_UPDATE more is recorded for a framebuffer address, and nothing else differs from
the state after the read. (R100, R101) -/
def Obligations.MemoryIncrementAndDecrement : Prop :=
  DecodesExactly .inc [(0xE6#8, .zeroPage), (0xF6#8, .zeroPageX), (0xEE#8, .absolute)] ∧
  DecodesExactly .dec [(0xC6#8, .zeroPage), (0xD6#8, .zeroPageX), (0xCE#8, .absolute)] ∧
  (∀ (i : Instr) (s : State), i.mnemonic = .inc → ∃ ea m s2 r t, ReadsOperand i s ea m s2 ∧
    (r.toNat : Int) = ((m.toNat : Int) + 1) % 256 ∧ exec i s = .next t ∧ OnlyCellWritten ea r s t ∧
    t = { s2 with mem := t.mem, n := isNegative r, z := isZero r, calls := callsAfterWrite ea r s2.calls }) ∧
  (∀ (i : Instr) (s : State), i.mnemonic = .dec → ∃ ea m s2 r t, ReadsOperand i s ea m s2 ∧
    (r.toNat : Int) = ((m.toNat : Int) - 1) % 256 ∧ exec i s = .next t ∧ OnlyCellWritten ea r s t ∧
    t = { s2 with mem := t.mem, n := isNegative r, z := isZero r, calls := callsAfterWrite ea r s2.calls })

/-- INX, INY, DEX and DEY decode from exactly E8, C8, CA and 88; from every state each answers the next state in which its
register is one higher or lower mod 256, N and Z are the result's, and nothing else has changed. (R102, R103, R104,
R105) -/
def Obligations.RegisterIncrementAndDecrement : Prop :=
  DecodesExactly .inx [(0xE8#8, .implicit)] ∧
  DecodesExactly .iny [(0xC8#8, .implicit)] ∧
  DecodesExactly .dex [(0xCA#8, .implicit)] ∧
  DecodesExactly .dey [(0x88#8, .implicit)] ∧
  ∀ s : State,
    (∃ r : Byte, (r.toNat : Int) = ((s.x.toNat : Int) + 1) % 256 ∧
      exec .inx s = .next { s with x := r, n := isNegative r, z := isZero r }) ∧
    (∃ r : Byte, (r.toNat : Int) = ((s.y.toNat : Int) + 1) % 256 ∧
      exec .iny s = .next { s with y := r, n := isNegative r, z := isZero r }) ∧
    (∃ r : Byte, (r.toNat : Int) = ((s.x.toNat : Int) - 1) % 256 ∧
      exec .dex s = .next { s with x := r, n := isNegative r, z := isZero r }) ∧
    (∃ r : Byte, (r.toNat : Int) = ((s.y.toNat : Int) - 1) % 256 ∧
      exec .dey s = .next { s with y := r, n := isNegative r, z := isZero r })

/-- JMP decodes from exactly 4C in Absolute mode (the indirect form 6C is not decoded); from every state it answers the
next state with pc at the operand word and nothing else changed. (R106) -/
def Obligations.JumpSetsTheProgramCounter : Prop :=
  DecodesExactly .jmp [(0x4C#8, .absolute)] ∧ descriptor 0x6C#8 = none ∧
  ∀ (addr : Word) (s : State), exec (.jmp addr) s = .next { s with pc := addr }

/-- JSR decodes from exactly 20; from every state it answers a next state with pc at the operand word, sp two lower mod
256, the low byte of the old pc (the address after JSR) at 0x0100 + sp, its high byte at 0x0100 + (sp - 1) mod 256,
every other cell as before, and nothing else changed, the collaborator calls included; and so does callSubroutine.
(R52, R107) -/
def Obligations.CallPushesTheReturnAddress : Prop :=
  DecodesExactly .jsr [(0x20#8, .absolute)] ∧
  ∀ (addr : Word) (s : State), ∃ t, exec (.jsr addr) s = .next t ∧ callSubroutine addr s = t ∧
    t.pc = addr ∧ (t.sp.toNat : Int) = ((s.sp.toNat : Int) - 2) % 256 ∧
    (∀ a : Word, baseRead a t =
      if a = 0x0100#16 + BitVec.ofNat 16 s.sp.toNat then BitVec.ofNat 8 (s.pc.toNat % 256)
      else if a = 0x0100#16 + BitVec.ofNat 16 (s.sp - 1#8).toNat then BitVec.ofNat 8 (s.pc.toNat / 256)
      else baseRead a s) ∧
    t = { s with pc := t.pc, sp := t.sp, mem := t.mem }

/-- RTS decodes from exactly 60; from every state it answers the next state with pc = hi * 256 + lo, hi the byte at 0x0100
+ (sp + 1) mod 256 and lo the byte at 0x0100 + (sp + 2) mod 256, sp two higher mod 256, and nothing else changed,
memory included; and so does returnFromSubroutine. (R53, R108) -/
def Obligations.ReturnPullsTheReturnAddress : Prop :=
  DecodesExactly .rts [(0x60#8, .implicit)] ∧
  ∀ s : State, ∃ t, exec .rts s = .next t ∧ returnFromSubroutine s = t ∧
    t.pc.toNat = (baseRead (0x0100#16 + BitVec.ofNat 16 ((s.sp.toNat + 1) % 256)) s).toNat * 256 +
      (baseRead (0x0100#16 + BitVec.ofNat 16 ((s.sp.toNat + 2) % 256)) s).toNat ∧
    t.sp.toNat = (s.sp.toNat + 2) % 256 ∧ t = { s with pc := t.pc, sp := t.sp }

/-- If JSR gives the next state t, then RTS from any state with t's memory and t's sp answers a next state whose pc is the
address after the JSR and whose sp is what it was before it. (R52, R53, R107, R108) -/
def Obligations.ReturnInvertsCall : Prop :=
  ∀ (addr : Word) (s t u : State), exec (.jsr addr) s = .next t → u.mem = t.mem → u.sp = t.sp →
    ∃ v, exec .rts u = .next v ∧ v.pc = s.pc ∧ v.sp = s.sp

/-- BPL, BMI, BCC, BCS, BNE and BEQ decode from exactly 10, 30, 90, B0, D0 and F0; from every state each answers the next
state in which pc is (pc + signed offset) mod 65536 when N = 0, N = 1, C = 0, C = 1, Z = 0 or Z = 1 respectively, pc
unchanged otherwise, and nothing else changed. (R109, R110, R111, R112, R113, R114) -/
def Obligations.BranchesTestTheirFlag : Prop :=
  DecodesExactly .bpl [(0x10#8, .relative)] ∧
  DecodesExactly .bmi [(0x30#8, .relative)] ∧
  DecodesExactly .bcc [(0x90#8, .relative)] ∧
  DecodesExactly .bcs [(0xB0#8, .relative)] ∧
  DecodesExactly .bne [(0xD0#8, .relative)] ∧
  DecodesExactly .beq [(0xF0#8, .relative)] ∧
  ∀ (offset : Byte) (s : State), ∃ target : Word,
    (target.toNat : Int) = ((s.pc.toNat : Int) + signedOffset offset) % 65536 ∧
    exec (.bpl offset) s = .next { s with pc := if s.n = false then target else s.pc } ∧
    exec (.bmi offset) s = .next { s with pc := if s.n = true then target else s.pc } ∧
    exec (.bcc offset) s = .next { s with pc := if s.c = false then target else s.pc } ∧
    exec (.bcs offset) s = .next { s with pc := if s.c = true then target else s.pc } ∧
    exec (.bne offset) s = .next { s with pc := if s.z = false then target else s.pc } ∧
    exec (.beq offset) s = .next { s with pc := if s.z = true then target else s.pc }

/-- CMP, CPX and CPY decode from exactly their listed opcode bytes; every form, from every state, answers the next state
with C = (register >= M) unsigned, Z = (register = M), N = bit 7 of (register - M) mod 256, and nothing else different
from the state after the reads: no register and no cell is written. (R115, R116, R117) -/
def Obligations.ComparisonsSetFlagsOnly : Prop :=
  DecodesExactly .cmp [(0xC9#8, .immediate), (0xC5#8, .zeroPage), (0xD5#8, .zeroPageX), (0xCD#8, .absolute), (0xC1#8, .indexedIndirect), (0xD1#8, .indirectIndexed)] ∧
  DecodesExactly .cpx [(0xE0#8, .immediate), (0xE4#8, .zeroPage), (0xEC#8, .absolute)] ∧
  DecodesExactly .cpy [(0xC0#8, .immediate), (0xC4#8, .zeroPage), (0xCC#8, .absolute)] ∧
  (∀ (i : Instr) (s : State), i.mnemonic = .cmp → ∃ ea m s2, ReadsOperand i s ea m s2 ∧
    exec i s = .next { s2 with
      c := decide (m.toNat ≤ s.a.toNat), z := decide (s.a = m),
      n := decide (128 ≤ ((s.a.toNat : Int) - m.toNat) % 256) }) ∧
  (∀ (i : Instr) (s : State), i.mnemonic = .cpx → ∃ ea m s2, ReadsOperand i s ea m s2 ∧
    exec i s = .next { s2 with
      c := decide (m.toNat ≤ s.x.toNat), z := decide (s.x = m),
      n := decide (128 ≤ ((s.x.toNat : Int) - m.toNat) % 256) }) ∧
  (∀ (i : Instr) (s : State), i.mnemonic = .cpy → ∃ ea m s2, ReadsOperand i s ea m s2 ∧
    exec i s = .next { s2 with
      c := decide (m.toNat ≤ s.y.toNat), z := decide (s.y = m),
      n := decide (128 ≤ ((s.y.toNat : Int) - m.toNat) % 256) })

/-- AND decodes from exactly its listed opcode bytes; every form, from every state, answers the next state in which bit k
of A is set exactly when it was set in A and is set in the byte read, N and Z are the result's, C is unchanged, and
nothing else differs from the state after the reads. (R118) -/
def Obligations.AndMasksTheAccumulator : Prop :=
  DecodesExactly .and [(0x29#8, .immediate), (0x25#8, .zeroPage), (0x35#8, .zeroPageX), (0x2D#8, .absolute), (0x21#8, .indexedIndirect), (0x31#8, .indirectIndexed)] ∧
  ∀ (i : Instr) (s : State), i.mnemonic = .and → ∃ ea m s2 r, ReadsOperand i s ea m s2 ∧
    (∀ k, k < 8 → Nat.testBit r.toNat k = (Nat.testBit s.a.toNat k && Nat.testBit m.toNat k)) ∧
    exec i s = .next { s2 with a := r, n := isNegative r, z := isZero r }

/-- BIT decodes from exactly 24 and 2C; both forms, from every state, answer the next state with Z = 1 exactly when A and
the byte read have no bit in common, N = bit 7 of the byte read, and nothing else different from the state after the
reads. N after BIT is the spec's own decision D16. (46_logic_shift.md R119, 92_eei_decisions.md D16) -/
def Obligations.BitTestsWithoutWriting : Prop :=
  DecodesExactly .bit [(0x24#8, .zeroPage), (0x2C#8, .absolute)] ∧
  ∀ (i : Instr) (s : State), i.mnemonic = .bit → ∃ ea m s2, ReadsOperand i s ea m s2 ∧
    exec i s = .next { s2 with
      n := isNegative m,
      z := decide (∀ k : Fin 8, ¬(Nat.testBit s.a.toNat k = true ∧ Nat.testBit m.toNat k = true)) }

/-- LSR decodes from exactly 4A (Implicit), 46, 56 and 4E. LSR A, from every state, answers the next state with A halved
(rounded down), C = old bit 0, N = 0, Z = (result = 0) and nothing else changed. A memory form answers a next state
with the cell at the effective address holding the byte read there halved, C, N and Z likewise, every other cell as
before, one FB_UPDATE more for a framebuffer address, and nothing else different from the state after the read. That
the Implicit form acts on A is the spec's own decision D17. (46_logic_shift.md R120, 92_eei_decisions.md D17) -/
def Obligations.ShiftRightHalvesItsOperand : Prop :=
  DecodesExactly .lsr [(0x4A#8, .implicit), (0x46#8, .zeroPage), (0x56#8, .zeroPageX), (0x4E#8, .absolute)] ∧
  (∀ s : State, ∃ r : Byte, r.toNat = s.a.toNat / 2 ∧
    exec .lsrA s = .next { s with
      a := r, c := decide (s.a.toNat % 2 = 1), n := false, z := decide (s.a.toNat / 2 = 0) }) ∧
  ∀ (i : Instr) (s : State), i.mnemonic = .lsr → i.operand.mode ≠ .implicit →
    ∃ ea m s2 r t, ReadsOperand i s ea m s2 ∧ r.toNat = m.toNat / 2 ∧ exec i s = .next t ∧
      OnlyCellWritten ea r s t ∧
      t = { s2 with
        mem := t.mem, c := decide (m.toNat % 2 = 1), n := false, z := decide (m.toNat / 2 = 0),
        calls := callsAfterWrite ea r s2.calls }

/-- ADC decodes from exactly its listed opcode bytes; every form, from every state, answers the next state with A = (A + M
+ C) mod 256, C = 1 exactly when A + M + C is above 255, N and Z the new A's, and nothing else different from the
state after the reads. (R122) -/
def Obligations.AddWithCarryIsExact : Prop :=
  DecodesExactly .adc [(0x69#8, .immediate), (0x65#8, .zeroPage), (0x75#8, .zeroPageX), (0x6D#8, .absolute), (0x61#8, .indexedIndirect), (0x71#8, .indirectIndexed)] ∧
  ∀ (i : Instr) (s : State), i.mnemonic = .adc → ∃ ea m s2 r, ReadsOperand i s ea m s2 ∧
    r.toNat = (s.a.toNat + m.toNat + s.c.toNat) % 256 ∧
    exec i s = .next { s2 with
      a := r, c := decide (255 < s.a.toNat + m.toNat + s.c.toNat), n := isNegative r, z := isZero r }

/-- SBC decodes from exactly its listed opcode bytes; every form, from every state, answers the next state with A = t mod
256 and C = 1 exactly when t >= 0, for t = A - M - (1 - C), N and Z the new A's, and nothing else different from the
state after the reads; and A + (255 - M) + C gives the same A and, above 255, the same C. (R123) -/
def Obligations.SubtractWithCarryIsExact : Prop :=
  DecodesExactly .sbc [(0xE9#8, .immediate), (0xE5#8, .zeroPage), (0xF5#8, .zeroPageX), (0xED#8, .absolute), (0xE1#8, .indexedIndirect), (0xF1#8, .indirectIndexed)] ∧
  ∀ (i : Instr) (s : State), i.mnemonic = .sbc → ∃ ea m s2 r, ReadsOperand i s ea m s2 ∧
    (r.toNat : Int) = ((s.a.toNat : Int) - m.toNat - (1 - s.c.toNat)) % 256 ∧
    r.toNat = (s.a.toNat + (255 - m.toNat) + s.c.toNat) % 256 ∧
    ((0 : Int) ≤ (s.a.toNat : Int) - m.toNat - (1 - s.c.toNat) ↔ 255 < s.a.toNat + (255 - m.toNat) + s.c.toNat) ∧
    exec i s = .next { s2 with
      a := r, c := decide ((0 : Int) ≤ (s.a.toNat : Int) - m.toNat - (1 - s.c.toNat)),
      n := isNegative r, z := isZero r }

/-- CLC and SEC decode from exactly 18 and 38; from every state they answer the next state with C = 0 and C = 1 and
nothing else changed. (R124, R125) -/
def Obligations.CarryOperationsWriteOnlyCarry : Prop :=
  DecodesExactly .clc [(0x18#8, .implicit)] ∧
  DecodesExactly .sec [(0x38#8, .implicit)] ∧
  ∀ s : State, exec .clc s = .next { s with c := false } ∧ exec .sec s = .next { s with c := true }

/-- NOP decodes from exactly EA; exec of it answers the state unchanged, and a step from a Running state with 0xEA at a
plain pc answers that state with pc one further, mod 65536, and the model's own mark that a STEP has run. That NOP is
decoded is the spec's own decision D19. (48_system.md R127, 92_eei_decisions.md D19) -/
def Obligations.NopChangesNothing : Prop :=
  DecodesExactly .nop [(0xEA#8, .implicit)] ∧
  (∀ s : State, exec .nop s = .next s) ∧
  ∀ s : State, s.run = .running → plainAddress s.pc → baseRead s.pc s = 0xEA#8 →
    step s = .next { s with pc := s.pc + 1#16, started := true }

/-- BRK decodes from exactly 00; exec of it answers the state with run = Halted(Stop) and nothing else changed, and a step
from a Running state with 0x00 at a plain pc answers that state Halted(Stop) with pc one further, mod 65536, and the
model's own mark that a STEP has run. (R126) -/
def Obligations.BrkHaltsNormally : Prop :=
  DecodesExactly .brk [(0x00#8, .implicit)] ∧
  (∀ s : State, exec .brk s = .next { s with run := .halted .stop }) ∧
  ∀ s : State, s.run = .running → plainAddress s.pc → baseRead s.pc s = 0x00#8 →
    step s = .next { s with pc := s.pc + 1#16, started := true, run := .halted .stop }

/-- Before the first STEP, LOAD of at most 0xFA00 bytes answers a next state in which the cell at 0x0600 + i holds byte i,
every other cell holds what it held, and nothing else has changed: not pc, and no FB_UPDATE is issued. The limit, and
LOAD before the first STEP only, are the spec's own decision D13. (R6, 20_memory.md section 3, R40,
92_eei_decisions.md D13) -/
def Obligations.LoadPlacesTheProgram : Prop :=
  ∀ (bytes : List Byte) (s : State), s.started = false → bytes.length ≤ 0xFA00 →
    ∃ t, loadProgram bytes s = .next t ∧ t = { s with mem := t.mem } ∧
      ∀ a : Word, some (baseRead a t) =
        if 0x0600 ≤ a.toNat ∧ a.toNat - 0x0600 < bytes.length then bytes[a.toNat - 0x0600]?
        else some (baseRead a s)

/-- Once a STEP has run, LOAD of any bytes, too many or not, is refused as too late; before the first one, LOAD of more
than 0xFA00 bytes is refused as too long. That such a LOAD is refused is the spec's own decision D13 (R40, I7, I8).
The mark that a STEP has run (log 4), the name of each refusal, and that a LOAD both too late and too long is refused
as too late (log 13) are the model's choice. (20_memory.md section 3, R40, 92_eei_decisions.md D13,
93_implementation_defined.md I7 and I8) -/
def Obligations.LoadIsRefusedTooLongOrTooLate : Prop :=
  ∀ (bytes : List Byte) (s : State),
    (s.started = true → loadProgram bytes s = .refused .loadAfterFirstStep) ∧
    (s.started = false → 0xFA00 < bytes.length → loadProgram bytes s = .refused (.programTooLong bytes.length))

/-- RUN with a given fuel answers t exactly when, for some number k of steps up to the fuel, k steps lead to t, t is
Halted, and no state reached after fewer steps is Halted; otherwise the run has not ended. (R88, R89) -/
def Obligations.RunEndsAtTheFirstHaltedState : Prop :=
  ∀ (fuel : Nat) (s t : State), runUntilHalted fuel s = some t ↔
    ∃ k, k ≤ fuel ∧ Host.Core.run Sys2Proof.core k s = .next t ∧ t.isHalted = true ∧
      ∀ (j : Nat) (u : State), j < k → Host.Core.run Sys2Proof.core j s = .next u → u.isHalted = false
end

