-- ==== Sys2Proof/Laws/State.lean ====
section
/-! SUPPORT. What each update of Machine/Ops.lean leaves in each field of State: one lemma per field per update. -/

namespace Sys2Proof.Machine

variable (s : State)


/-! ### `putNZ` -/

@[simp] theorem State.putNZ_a (n z : Bool) : (s.putNZ n z).a = s.a := rfl
@[simp] theorem State.putNZ_x (n z : Bool) : (s.putNZ n z).x = s.x := rfl
@[simp] theorem State.putNZ_y (n z : Bool) : (s.putNZ n z).y = s.y := rfl
@[simp] theorem State.putNZ_c (n z : Bool) : (s.putNZ n z).c = s.c := rfl
@[simp] theorem State.putNZ_n (n z : Bool) : (s.putNZ n z).n = n := rfl
@[simp] theorem State.putNZ_z (n z : Bool) : (s.putNZ n z).z = z := rfl
@[simp] theorem State.putNZ_pc (n z : Bool) : (s.putNZ n z).pc = s.pc := rfl
@[simp] theorem State.putNZ_sp (n z : Bool) : (s.putNZ n z).sp = s.sp := rfl
@[simp] theorem State.putNZ_mem (n z : Bool) : (s.putNZ n z).mem = s.mem := rfl
@[simp] theorem State.putNZ_run (n z : Bool) : (s.putNZ n z).run = s.run := rfl
@[simp] theorem State.putNZ_started (n z : Bool) : (s.putNZ n z).started = s.started := rfl
@[simp] theorem State.putNZ_randCalls (n z : Bool) : (s.putNZ n z).randCalls = s.randCalls := rfl
@[simp] theorem State.putNZ_keyCalls (n z : Bool) : (s.putNZ n z).keyCalls = s.keyCalls := rfl
@[simp] theorem State.putNZ_calls (n z : Bool) : (s.putNZ n z).calls = s.calls := rfl

/-! ### `putC` -/

@[simp] theorem State.putC_a (c : Bool) : (s.putC c).a = s.a := rfl
@[simp] theorem State.putC_x (c : Bool) : (s.putC c).x = s.x := rfl
@[simp] theorem State.putC_y (c : Bool) : (s.putC c).y = s.y := rfl
@[simp] theorem State.putC_c (c : Bool) : (s.putC c).c = c := rfl
@[simp] theorem State.putC_n (c : Bool) : (s.putC c).n = s.n := rfl
@[simp] theorem State.putC_z (c : Bool) : (s.putC c).z = s.z := rfl
@[simp] theorem State.putC_pc (c : Bool) : (s.putC c).pc = s.pc := rfl
@[simp] theorem State.putC_sp (c : Bool) : (s.putC c).sp = s.sp := rfl
@[simp] theorem State.putC_mem (c : Bool) : (s.putC c).mem = s.mem := rfl
@[simp] theorem State.putC_run (c : Bool) : (s.putC c).run = s.run := rfl
@[simp] theorem State.putC_started (c : Bool) : (s.putC c).started = s.started := rfl
@[simp] theorem State.putC_randCalls (c : Bool) : (s.putC c).randCalls = s.randCalls := rfl
@[simp] theorem State.putC_keyCalls (c : Bool) : (s.putC c).keyCalls = s.keyCalls := rfl
@[simp] theorem State.putC_calls (c : Bool) : (s.putC c).calls = s.calls := rfl

/-! ### `putPc` -/

@[simp] theorem State.putPc_a (target : Word) : (s.putPc target).a = s.a := rfl
@[simp] theorem State.putPc_x (target : Word) : (s.putPc target).x = s.x := rfl
@[simp] theorem State.putPc_y (target : Word) : (s.putPc target).y = s.y := rfl
@[simp] theorem State.putPc_c (target : Word) : (s.putPc target).c = s.c := rfl
@[simp] theorem State.putPc_n (target : Word) : (s.putPc target).n = s.n := rfl
@[simp] theorem State.putPc_z (target : Word) : (s.putPc target).z = s.z := rfl
@[simp] theorem State.putPc_pc (target : Word) : (s.putPc target).pc = target := rfl
@[simp] theorem State.putPc_sp (target : Word) : (s.putPc target).sp = s.sp := rfl
@[simp] theorem State.putPc_mem (target : Word) : (s.putPc target).mem = s.mem := rfl
@[simp] theorem State.putPc_run (target : Word) : (s.putPc target).run = s.run := rfl
@[simp] theorem State.putPc_started (target : Word) : (s.putPc target).started = s.started := rfl
@[simp] theorem State.putPc_randCalls (target : Word) : (s.putPc target).randCalls = s.randCalls := rfl
@[simp] theorem State.putPc_keyCalls (target : Word) : (s.putPc target).keyCalls = s.keyCalls := rfl
@[simp] theorem State.putPc_calls (target : Word) : (s.putPc target).calls = s.calls := rfl

/-! ### `putSp` -/

@[simp] theorem State.putSp_a (sp : Byte) : (s.putSp sp).a = s.a := rfl
@[simp] theorem State.putSp_x (sp : Byte) : (s.putSp sp).x = s.x := rfl
@[simp] theorem State.putSp_y (sp : Byte) : (s.putSp sp).y = s.y := rfl
@[simp] theorem State.putSp_c (sp : Byte) : (s.putSp sp).c = s.c := rfl
@[simp] theorem State.putSp_n (sp : Byte) : (s.putSp sp).n = s.n := rfl
@[simp] theorem State.putSp_z (sp : Byte) : (s.putSp sp).z = s.z := rfl
@[simp] theorem State.putSp_pc (sp : Byte) : (s.putSp sp).pc = s.pc := rfl
@[simp] theorem State.putSp_sp (sp : Byte) : (s.putSp sp).sp = sp := rfl
@[simp] theorem State.putSp_mem (sp : Byte) : (s.putSp sp).mem = s.mem := rfl
@[simp] theorem State.putSp_run (sp : Byte) : (s.putSp sp).run = s.run := rfl
@[simp] theorem State.putSp_started (sp : Byte) : (s.putSp sp).started = s.started := rfl
@[simp] theorem State.putSp_randCalls (sp : Byte) : (s.putSp sp).randCalls = s.randCalls := rfl
@[simp] theorem State.putSp_keyCalls (sp : Byte) : (s.putSp sp).keyCalls = s.keyCalls := rfl
@[simp] theorem State.putSp_calls (sp : Byte) : (s.putSp sp).calls = s.calls := rfl

/-! ### `putMem` -/

@[simp] theorem State.putMem_a (m : Memory) : (s.putMem m).a = s.a := rfl
@[simp] theorem State.putMem_x (m : Memory) : (s.putMem m).x = s.x := rfl
@[simp] theorem State.putMem_y (m : Memory) : (s.putMem m).y = s.y := rfl
@[simp] theorem State.putMem_c (m : Memory) : (s.putMem m).c = s.c := rfl
@[simp] theorem State.putMem_n (m : Memory) : (s.putMem m).n = s.n := rfl
@[simp] theorem State.putMem_z (m : Memory) : (s.putMem m).z = s.z := rfl
@[simp] theorem State.putMem_pc (m : Memory) : (s.putMem m).pc = s.pc := rfl
@[simp] theorem State.putMem_sp (m : Memory) : (s.putMem m).sp = s.sp := rfl
@[simp] theorem State.putMem_mem (m : Memory) : (s.putMem m).mem = m := rfl
@[simp] theorem State.putMem_run (m : Memory) : (s.putMem m).run = s.run := rfl
@[simp] theorem State.putMem_started (m : Memory) : (s.putMem m).started = s.started := rfl
@[simp] theorem State.putMem_randCalls (m : Memory) : (s.putMem m).randCalls = s.randCalls := rfl
@[simp] theorem State.putMem_keyCalls (m : Memory) : (s.putMem m).keyCalls = s.keyCalls := rfl
@[simp] theorem State.putMem_calls (m : Memory) : (s.putMem m).calls = s.calls := rfl

/-! ### `putRun` -/

@[simp] theorem State.putRun_a (r : RunState) : (s.putRun r).a = s.a := rfl
@[simp] theorem State.putRun_x (r : RunState) : (s.putRun r).x = s.x := rfl
@[simp] theorem State.putRun_y (r : RunState) : (s.putRun r).y = s.y := rfl
@[simp] theorem State.putRun_c (r : RunState) : (s.putRun r).c = s.c := rfl
@[simp] theorem State.putRun_n (r : RunState) : (s.putRun r).n = s.n := rfl
@[simp] theorem State.putRun_z (r : RunState) : (s.putRun r).z = s.z := rfl
@[simp] theorem State.putRun_pc (r : RunState) : (s.putRun r).pc = s.pc := rfl
@[simp] theorem State.putRun_sp (r : RunState) : (s.putRun r).sp = s.sp := rfl
@[simp] theorem State.putRun_mem (r : RunState) : (s.putRun r).mem = s.mem := rfl
@[simp] theorem State.putRun_run (r : RunState) : (s.putRun r).run = r := rfl
@[simp] theorem State.putRun_started (r : RunState) : (s.putRun r).started = s.started := rfl
@[simp] theorem State.putRun_randCalls (r : RunState) : (s.putRun r).randCalls = s.randCalls := rfl
@[simp] theorem State.putRun_keyCalls (r : RunState) : (s.putRun r).keyCalls = s.keyCalls := rfl
@[simp] theorem State.putRun_calls (r : RunState) : (s.putRun r).calls = s.calls := rfl

/-! ### `markStarted` -/

@[simp] theorem State.markStarted_a : (s.markStarted).a = s.a := rfl
@[simp] theorem State.markStarted_x : (s.markStarted).x = s.x := rfl
@[simp] theorem State.markStarted_y : (s.markStarted).y = s.y := rfl
@[simp] theorem State.markStarted_c : (s.markStarted).c = s.c := rfl
@[simp] theorem State.markStarted_n : (s.markStarted).n = s.n := rfl
@[simp] theorem State.markStarted_z : (s.markStarted).z = s.z := rfl
@[simp] theorem State.markStarted_pc : (s.markStarted).pc = s.pc := rfl
@[simp] theorem State.markStarted_sp : (s.markStarted).sp = s.sp := rfl
@[simp] theorem State.markStarted_mem : (s.markStarted).mem = s.mem := rfl
@[simp] theorem State.markStarted_run : (s.markStarted).run = s.run := rfl
@[simp] theorem State.markStarted_started : (s.markStarted).started = true := rfl
@[simp] theorem State.markStarted_randCalls : (s.markStarted).randCalls = s.randCalls := rfl
@[simp] theorem State.markStarted_keyCalls : (s.markStarted).keyCalls = s.keyCalls := rfl
@[simp] theorem State.markStarted_calls : (s.markStarted).calls = s.calls := rfl

/-! ### `callRand` -/

@[simp] theorem State.callRand_a : (s.callRand).a = s.a := rfl
@[simp] theorem State.callRand_x : (s.callRand).x = s.x := rfl
@[simp] theorem State.callRand_y : (s.callRand).y = s.y := rfl
@[simp] theorem State.callRand_c : (s.callRand).c = s.c := rfl
@[simp] theorem State.callRand_n : (s.callRand).n = s.n := rfl
@[simp] theorem State.callRand_z : (s.callRand).z = s.z := rfl
@[simp] theorem State.callRand_pc : (s.callRand).pc = s.pc := rfl
@[simp] theorem State.callRand_sp : (s.callRand).sp = s.sp := rfl
@[simp] theorem State.callRand_mem : (s.callRand).mem = s.mem := rfl
@[simp] theorem State.callRand_run : (s.callRand).run = s.run := rfl
@[simp] theorem State.callRand_started : (s.callRand).started = s.started := rfl
@[simp] theorem State.callRand_randCalls : (s.callRand).randCalls = s.randCalls + 1 := rfl
@[simp] theorem State.callRand_keyCalls : (s.callRand).keyCalls = s.keyCalls := rfl
@[simp] theorem State.callRand_calls : (s.callRand).calls = .rand (Config.randAnswer s.randCalls) :: s.calls := rfl

/-! ### `callKey` -/

@[simp] theorem State.callKey_a : (s.callKey).a = s.a := rfl
@[simp] theorem State.callKey_x : (s.callKey).x = s.x := rfl
@[simp] theorem State.callKey_y : (s.callKey).y = s.y := rfl
@[simp] theorem State.callKey_c : (s.callKey).c = s.c := rfl
@[simp] theorem State.callKey_n : (s.callKey).n = s.n := rfl
@[simp] theorem State.callKey_z : (s.callKey).z = s.z := rfl
@[simp] theorem State.callKey_pc : (s.callKey).pc = s.pc := rfl
@[simp] theorem State.callKey_sp : (s.callKey).sp = s.sp := rfl
@[simp] theorem State.callKey_mem : (s.callKey).mem = s.mem := rfl
@[simp] theorem State.callKey_run : (s.callKey).run = s.run := rfl
@[simp] theorem State.callKey_started : (s.callKey).started = s.started := rfl
@[simp] theorem State.callKey_randCalls : (s.callKey).randCalls = s.randCalls := rfl
@[simp] theorem State.callKey_keyCalls : (s.callKey).keyCalls = s.keyCalls + 1 := rfl
@[simp] theorem State.callKey_calls : (s.callKey).calls = .key (Config.keyAnswer s.keyCalls) :: s.calls := rfl

/-! ### `callFbUpdate` -/

@[simp] theorem State.callFbUpdate_a (x y colour : Nat) : (s.callFbUpdate x y colour).a = s.a := rfl
@[simp] theorem State.callFbUpdate_x (x y colour : Nat) : (s.callFbUpdate x y colour).x = s.x := rfl
@[simp] theorem State.callFbUpdate_y (x y colour : Nat) : (s.callFbUpdate x y colour).y = s.y := rfl
@[simp] theorem State.callFbUpdate_c (x y colour : Nat) : (s.callFbUpdate x y colour).c = s.c := rfl
@[simp] theorem State.callFbUpdate_n (x y colour : Nat) : (s.callFbUpdate x y colour).n = s.n := rfl
@[simp] theorem State.callFbUpdate_z (x y colour : Nat) : (s.callFbUpdate x y colour).z = s.z := rfl
@[simp] theorem State.callFbUpdate_pc (x y colour : Nat) : (s.callFbUpdate x y colour).pc = s.pc := rfl
@[simp] theorem State.callFbUpdate_sp (x y colour : Nat) : (s.callFbUpdate x y colour).sp = s.sp := rfl
@[simp] theorem State.callFbUpdate_mem (x y colour : Nat) : (s.callFbUpdate x y colour).mem = s.mem := rfl
@[simp] theorem State.callFbUpdate_run (x y colour : Nat) : (s.callFbUpdate x y colour).run = s.run := rfl
@[simp] theorem State.callFbUpdate_started (x y colour : Nat) : (s.callFbUpdate x y colour).started = s.started := rfl
@[simp] theorem State.callFbUpdate_randCalls (x y colour : Nat) : (s.callFbUpdate x y colour).randCalls = s.randCalls := rfl
@[simp] theorem State.callFbUpdate_keyCalls (x y colour : Nat) : (s.callFbUpdate x y colour).keyCalls = s.keyCalls := rfl
@[simp] theorem State.callFbUpdate_calls (x y colour : Nat) : (s.callFbUpdate x y colour).calls = .fbUpdate x y colour :: s.calls := rfl

/-! ### `putReg` and `reg` -/

@[simp] theorem State.putReg_a_a (v : Byte) : (s.putReg .a v).a = v := rfl
@[simp] theorem State.putReg_x_a (v : Byte) : (s.putReg .x v).a = s.a := rfl
@[simp] theorem State.putReg_y_a (v : Byte) : (s.putReg .y v).a = s.a := rfl
@[simp] theorem State.putReg_a_x (v : Byte) : (s.putReg .a v).x = s.x := rfl
@[simp] theorem State.putReg_x_x (v : Byte) : (s.putReg .x v).x = v := rfl
@[simp] theorem State.putReg_y_x (v : Byte) : (s.putReg .y v).x = s.x := rfl
@[simp] theorem State.putReg_a_y (v : Byte) : (s.putReg .a v).y = s.y := rfl
@[simp] theorem State.putReg_x_y (v : Byte) : (s.putReg .x v).y = s.y := rfl
@[simp] theorem State.putReg_y_y (v : Byte) : (s.putReg .y v).y = v := rfl
@[simp] theorem State.putReg_c (r : Reg) (v : Byte) : (s.putReg r v).c = s.c := by cases r <;> rfl
@[simp] theorem State.putReg_n (r : Reg) (v : Byte) : (s.putReg r v).n = s.n := by cases r <;> rfl
@[simp] theorem State.putReg_z (r : Reg) (v : Byte) : (s.putReg r v).z = s.z := by cases r <;> rfl
@[simp] theorem State.putReg_pc (r : Reg) (v : Byte) : (s.putReg r v).pc = s.pc := by cases r <;> rfl
@[simp] theorem State.putReg_sp (r : Reg) (v : Byte) : (s.putReg r v).sp = s.sp := by cases r <;> rfl
@[simp] theorem State.putReg_mem (r : Reg) (v : Byte) : (s.putReg r v).mem = s.mem := by cases r <;> rfl
@[simp] theorem State.putReg_run (r : Reg) (v : Byte) : (s.putReg r v).run = s.run := by cases r <;> rfl
@[simp] theorem State.putReg_started (r : Reg) (v : Byte) : (s.putReg r v).started = s.started := by cases r <;> rfl
@[simp] theorem State.putReg_randCalls (r : Reg) (v : Byte) : (s.putReg r v).randCalls = s.randCalls := by cases r <;> rfl
@[simp] theorem State.putReg_keyCalls (r : Reg) (v : Byte) : (s.putReg r v).keyCalls = s.keyCalls := by cases r <;> rfl
@[simp] theorem State.putReg_calls (r : Reg) (v : Byte) : (s.putReg r v).calls = s.calls := by cases r <;> rfl
@[simp] theorem State.reg_a : s.reg .a = s.a := rfl
@[simp] theorem State.reg_x : s.reg .x = s.x := rfl
@[simp] theorem State.reg_y : s.reg .y = s.y := rfl
@[simp] theorem State.reg_putReg_same (r : Reg) (v : Byte) : (s.putReg r v).reg r = v := by cases r <;> rfl
theorem State.reg_putReg_other (r q : Reg) (v : Byte) (h : q ≠ r) : (s.putReg r v).reg q = s.reg q := by
  cases r <;> cases q <;> first | rfl | exact absurd rfl h

end Sys2Proof.Machine
end

