-- ==== Sys2Proof/Laws/Flags.lean ====
section
/-! SUPPORT. What each flag computation and the register write leave in each field, and the exact results as bytes. -/

namespace Sys2Proof.Machine

@[simp] theorem truncate8_natCast (b : Byte) : truncate8 (b.toNat : Int) = b := by
  simp [truncate8]

/-- `(v + 1) mod 256` (R100, R102, R103). -/
@[simp] theorem truncate8_succ (b : Byte) : truncate8 ((b.toNat : Int) + 1) = b + 1#8 := by
  apply BitVec.eq_of_toNat_eq
  have := b.isLt
  have one : BitVec.toNat 1#8 = 1 := rfl
  simp only [truncate8, BitVec.toNat_ofInt, BitVec.toNat_add, one]
  omega

/-- `(v - 1) mod 256` (R101, R104, R105). -/
@[simp] theorem truncate8_pred (b : Byte) : truncate8 ((b.toNat : Int) - 1) = b - 1#8 := by
  apply BitVec.eq_of_toNat_eq
  have := b.isLt
  have one : BitVec.toNat 1#8 = 1 := rfl
  simp only [truncate8, BitVec.toNat_ofInt, BitVec.toNat_sub, one]
  omega

/-- `(r - m) mod 256` (45_compare.md). -/
@[simp] theorem truncate8_sub (r m : Byte) : truncate8 ((r.toNat : Int) - m.toNat) = r - m := by
  apply BitVec.eq_of_toNat_eq
  have := r.isLt
  have := m.isLt
  simp only [truncate8, BitVec.toNat_ofInt, BitVec.toNat_sub]
  omega

theorem toNat_truncate8 (n : Int) : ((truncate8 n).toNat : Int) = n % 256 := by
  simp only [truncate8, BitVec.toNat_ofInt]
  omega

@[simp] theorem nz_value (n : Int) (s : State) : (nz n s).1 = truncate8 n := rfl
@[simp] theorem nz_state (n : Int) (s : State) : (nz n s).2 = s.putNZ (truncate8 n).msb (truncate8 n == 0#8) := rfl

/-- All that a register write does (R16, R17). -/
theorem setReg_eq (r : Reg) (n : Int) (s : State) :
    setReg r n s = (s.putNZ (truncate8 n).msb (truncate8 n == 0#8)).putReg r (truncate8 n) := rfl

@[simp] theorem setReg_a_a (v : Int) (s : State) : (setReg .a v s).a = truncate8 v := rfl
@[simp] theorem setReg_x_a (v : Int) (s : State) : (setReg .x v s).a = s.a := rfl
@[simp] theorem setReg_y_a (v : Int) (s : State) : (setReg .y v s).a = s.a := rfl
@[simp] theorem setReg_a_x (v : Int) (s : State) : (setReg .a v s).x = s.x := rfl
@[simp] theorem setReg_x_x (v : Int) (s : State) : (setReg .x v s).x = truncate8 v := rfl
@[simp] theorem setReg_y_x (v : Int) (s : State) : (setReg .y v s).x = s.x := rfl
@[simp] theorem setReg_a_y (v : Int) (s : State) : (setReg .a v s).y = s.y := rfl
@[simp] theorem setReg_x_y (v : Int) (s : State) : (setReg .x v s).y = s.y := rfl
@[simp] theorem setReg_y_y (v : Int) (s : State) : (setReg .y v s).y = truncate8 v := rfl
@[simp] theorem setReg_c (r : Reg) (v : Int) (s : State) : (setReg r v s).c = s.c := by cases r <;> rfl
@[simp] theorem setReg_n (r : Reg) (v : Int) (s : State) : (setReg r v s).n = (truncate8 v).msb := by cases r <;> rfl
@[simp] theorem setReg_z (r : Reg) (v : Int) (s : State) : (setReg r v s).z = (truncate8 v == 0#8) := by cases r <;> rfl
@[simp] theorem setReg_pc (r : Reg) (v : Int) (s : State) : (setReg r v s).pc = s.pc := by cases r <;> rfl
@[simp] theorem setReg_sp (r : Reg) (v : Int) (s : State) : (setReg r v s).sp = s.sp := by cases r <;> rfl
@[simp] theorem setReg_mem (r : Reg) (v : Int) (s : State) : (setReg r v s).mem = s.mem := by cases r <;> rfl
@[simp] theorem setReg_run (r : Reg) (v : Int) (s : State) : (setReg r v s).run = s.run := by cases r <;> rfl
@[simp] theorem setReg_started (r : Reg) (v : Int) (s : State) : (setReg r v s).started = s.started := by cases r <;> rfl
@[simp] theorem setReg_randCalls (r : Reg) (v : Int) (s : State) : (setReg r v s).randCalls = s.randCalls := by cases r <;> rfl
@[simp] theorem setReg_keyCalls (r : Reg) (v : Int) (s : State) : (setReg r v s).keyCalls = s.keyCalls := by cases r <;> rfl
@[simp] theorem setReg_calls (r : Reg) (v : Int) (s : State) : (setReg r v s).calls = s.calls := by cases r <;> rfl

@[simp] theorem setCarry_a (s : State) : (setCarry s).a = s.a := rfl
@[simp] theorem setCarry_x (s : State) : (setCarry s).x = s.x := rfl
@[simp] theorem setCarry_y (s : State) : (setCarry s).y = s.y := rfl
@[simp] theorem setCarry_c (s : State) : (setCarry s).c = true := rfl
@[simp] theorem setCarry_n (s : State) : (setCarry s).n = s.n := rfl
@[simp] theorem setCarry_z (s : State) : (setCarry s).z = s.z := rfl
@[simp] theorem setCarry_pc (s : State) : (setCarry s).pc = s.pc := rfl
@[simp] theorem setCarry_sp (s : State) : (setCarry s).sp = s.sp := rfl
@[simp] theorem setCarry_mem (s : State) : (setCarry s).mem = s.mem := rfl
@[simp] theorem setCarry_run (s : State) : (setCarry s).run = s.run := rfl
@[simp] theorem setCarry_started (s : State) : (setCarry s).started = s.started := rfl
@[simp] theorem setCarry_randCalls (s : State) : (setCarry s).randCalls = s.randCalls := rfl
@[simp] theorem setCarry_keyCalls (s : State) : (setCarry s).keyCalls = s.keyCalls := rfl
@[simp] theorem setCarry_calls (s : State) : (setCarry s).calls = s.calls := rfl

@[simp] theorem clearCarry_a (s : State) : (clearCarry s).a = s.a := rfl
@[simp] theorem clearCarry_x (s : State) : (clearCarry s).x = s.x := rfl
@[simp] theorem clearCarry_y (s : State) : (clearCarry s).y = s.y := rfl
@[simp] theorem clearCarry_c (s : State) : (clearCarry s).c = false := rfl
@[simp] theorem clearCarry_n (s : State) : (clearCarry s).n = s.n := rfl
@[simp] theorem clearCarry_z (s : State) : (clearCarry s).z = s.z := rfl
@[simp] theorem clearCarry_pc (s : State) : (clearCarry s).pc = s.pc := rfl
@[simp] theorem clearCarry_sp (s : State) : (clearCarry s).sp = s.sp := rfl
@[simp] theorem clearCarry_mem (s : State) : (clearCarry s).mem = s.mem := rfl
@[simp] theorem clearCarry_run (s : State) : (clearCarry s).run = s.run := rfl
@[simp] theorem clearCarry_started (s : State) : (clearCarry s).started = s.started := rfl
@[simp] theorem clearCarry_randCalls (s : State) : (clearCarry s).randCalls = s.randCalls := rfl
@[simp] theorem clearCarry_keyCalls (s : State) : (clearCarry s).keyCalls = s.keyCalls := rfl
@[simp] theorem clearCarry_calls (s : State) : (clearCarry s).calls = s.calls := rfl

@[simp] theorem setCarryIf_a (b : Bool) (s : State) : (setCarryIf b s).a = s.a := rfl
@[simp] theorem setCarryIf_x (b : Bool) (s : State) : (setCarryIf b s).x = s.x := rfl
@[simp] theorem setCarryIf_y (b : Bool) (s : State) : (setCarryIf b s).y = s.y := rfl
@[simp] theorem setCarryIf_c (b : Bool) (s : State) : (setCarryIf b s).c = b := rfl
@[simp] theorem setCarryIf_n (b : Bool) (s : State) : (setCarryIf b s).n = s.n := rfl
@[simp] theorem setCarryIf_z (b : Bool) (s : State) : (setCarryIf b s).z = s.z := rfl
@[simp] theorem setCarryIf_pc (b : Bool) (s : State) : (setCarryIf b s).pc = s.pc := rfl
@[simp] theorem setCarryIf_sp (b : Bool) (s : State) : (setCarryIf b s).sp = s.sp := rfl
@[simp] theorem setCarryIf_mem (b : Bool) (s : State) : (setCarryIf b s).mem = s.mem := rfl
@[simp] theorem setCarryIf_run (b : Bool) (s : State) : (setCarryIf b s).run = s.run := rfl
@[simp] theorem setCarryIf_started (b : Bool) (s : State) : (setCarryIf b s).started = s.started := rfl
@[simp] theorem setCarryIf_randCalls (b : Bool) (s : State) : (setCarryIf b s).randCalls = s.randCalls := rfl
@[simp] theorem setCarryIf_keyCalls (b : Bool) (s : State) : (setCarryIf b s).keyCalls = s.keyCalls := rfl
@[simp] theorem setCarryIf_calls (b : Bool) (s : State) : (setCarryIf b s).calls = s.calls := rfl

@[simp] theorem compareFlags_a (r m : Byte) (s : State) : (compareFlags r m s).a = s.a := rfl
@[simp] theorem compareFlags_x (r m : Byte) (s : State) : (compareFlags r m s).x = s.x := rfl
@[simp] theorem compareFlags_y (r m : Byte) (s : State) : (compareFlags r m s).y = s.y := rfl
@[simp] theorem compareFlags_c (r m : Byte) (s : State) : (compareFlags r m s).c = decide (m.toNat ≤ r.toNat) := rfl
@[simp] theorem compareFlags_n (r m : Byte) (s : State) : (compareFlags r m s).n = (r - m).msb := by simp [compareFlags]
@[simp] theorem compareFlags_z (r m : Byte) (s : State) : (compareFlags r m s).z = (r - m == 0#8) := by simp [compareFlags]
@[simp] theorem compareFlags_pc (r m : Byte) (s : State) : (compareFlags r m s).pc = s.pc := rfl
@[simp] theorem compareFlags_sp (r m : Byte) (s : State) : (compareFlags r m s).sp = s.sp := rfl
@[simp] theorem compareFlags_mem (r m : Byte) (s : State) : (compareFlags r m s).mem = s.mem := rfl
@[simp] theorem compareFlags_run (r m : Byte) (s : State) : (compareFlags r m s).run = s.run := rfl
@[simp] theorem compareFlags_started (r m : Byte) (s : State) : (compareFlags r m s).started = s.started := rfl
@[simp] theorem compareFlags_randCalls (r m : Byte) (s : State) : (compareFlags r m s).randCalls = s.randCalls := rfl
@[simp] theorem compareFlags_keyCalls (r m : Byte) (s : State) : (compareFlags r m s).keyCalls = s.keyCalls := rfl
@[simp] theorem compareFlags_calls (r m : Byte) (s : State) : (compareFlags r m s).calls = s.calls := rfl

@[simp] theorem bitTestFlags_a (v m : Byte) (s : State) : (bitTestFlags v m s).a = s.a := rfl
@[simp] theorem bitTestFlags_x (v m : Byte) (s : State) : (bitTestFlags v m s).x = s.x := rfl
@[simp] theorem bitTestFlags_y (v m : Byte) (s : State) : (bitTestFlags v m s).y = s.y := rfl
@[simp] theorem bitTestFlags_c (v m : Byte) (s : State) : (bitTestFlags v m s).c = s.c := rfl
@[simp] theorem bitTestFlags_n (v m : Byte) (s : State) : (bitTestFlags v m s).n = m.msb := rfl
@[simp] theorem bitTestFlags_z (v m : Byte) (s : State) : (bitTestFlags v m s).z = ((v &&& m) == 0#8) := rfl
@[simp] theorem bitTestFlags_pc (v m : Byte) (s : State) : (bitTestFlags v m s).pc = s.pc := rfl
@[simp] theorem bitTestFlags_sp (v m : Byte) (s : State) : (bitTestFlags v m s).sp = s.sp := rfl
@[simp] theorem bitTestFlags_mem (v m : Byte) (s : State) : (bitTestFlags v m s).mem = s.mem := rfl
@[simp] theorem bitTestFlags_run (v m : Byte) (s : State) : (bitTestFlags v m s).run = s.run := rfl
@[simp] theorem bitTestFlags_started (v m : Byte) (s : State) : (bitTestFlags v m s).started = s.started := rfl
@[simp] theorem bitTestFlags_randCalls (v m : Byte) (s : State) : (bitTestFlags v m s).randCalls = s.randCalls := rfl
@[simp] theorem bitTestFlags_keyCalls (v m : Byte) (s : State) : (bitTestFlags v m s).keyCalls = s.keyCalls := rfl
@[simp] theorem bitTestFlags_calls (v m : Byte) (s : State) : (bitTestFlags v m s).calls = s.calls := rfl

end Sys2Proof.Machine
end

