-- ==== Sys2Proof/Laws/Bytes.lean ====
section
/-! SUPPORT. Byte order and sign extension as numbers (R51, R74), and that `toWord` and `toBytes` undo each other. -/

namespace Sys2Proof.Machine

theorem toNat_toWord (lo hi : Byte) : (toWord lo hi).toNat = hi.toNat * 256 + lo.toNat := by
  have h1 := lo.isLt
  have h2 := hi.isLt
  simp only [toWord, BitVec.toNat_ofNat]
  omega

theorem toNat_loByte (w : Word) : (loByte w).toNat = w.toNat % 256 := by
  simp [loByte]

theorem toNat_hiByte (w : Word) : (hiByte w).toNat = w.toNat / 256 := by
  have := w.isLt
  simp only [hiByte, BitVec.toNat_ofNat]
  omega

@[simp] theorem toNat_zext16 (b : Byte) : (zext16 b).toNat = b.toNat := by
  have := b.isLt
  simp only [zext16, BitVec.toNat_ofNat]
  omega

/-- A word is made of its two bytes (R51). -/
@[simp] theorem toWord_bytes (w : Word) : toWord (loByte w) (hiByte w) = w := by
  apply BitVec.eq_of_toNat_eq
  rw [toNat_toWord, toNat_loByte, toNat_hiByte]
  omega

@[simp] theorem loByte_toWord (lo hi : Byte) : loByte (toWord lo hi) = lo := by
  apply BitVec.eq_of_toNat_eq
  have := lo.isLt
  rw [toNat_loByte, toNat_toWord]
  omega

@[simp] theorem hiByte_toWord (lo hi : Byte) : hiByte (toWord lo hi) = hi := by
  apply BitVec.eq_of_toNat_eq
  have := lo.isLt
  rw [toNat_hiByte, toNat_toWord]
  omega

theorem zext16_injective (b c : Byte) (h : zext16 b = zext16 c) : b = c := by
  apply BitVec.eq_of_toNat_eq
  rw [← toNat_zext16 b, h, toNat_zext16]

/-- `sext_8` stays in -128..127 (R74). -/
theorem sext8_range (b : Byte) : -128 ≤ sext8 b ∧ sext8 b ≤ 127 := by
  have := b.isLt
  unfold sext8
  split <;> omega

end Sys2Proof.Machine
end

