-- ==== Sys2Proof/Laws/Memory.lean ====
section
/-! SUPPORT. The laws of the base store: a read after a write (R34, R35), the canonical form kept by every operation, and
that the form determines the memory. The read laws hold of every list, canonical or not. -/

namespace Sys2Proof.Machine

theorem Memory.read_erase (a k : Nat) (m : Memory) :
    Memory.read a (Memory.erase k m) = if a = k then unwrittenByte else Memory.read a m := by
  induction m with
  | nil => simp [Memory.erase, Memory.read]
  | cons cell m ih =>
    obtain ⟨j, w⟩ := cell
    by_cases hj : j = k <;> by_cases ha : a = k <;> simp_all [Memory.erase, Memory.read]
    rintro rfl; contradiction

theorem Memory.read_insert_erase (a k : Nat) (v : Byte) (m : Memory) :
    Memory.read a (Memory.insert k v (Memory.erase k m)) = if a = k then v else Memory.read a m := by
  induction m with
  | nil => simp [Memory.erase, Memory.insert, Memory.read, eq_comm]
  | cons cell m ih =>
    obtain ⟨j, w⟩ := cell
    by_cases hj : j = k
    · subst hj
      simp only [Memory.erase, if_true, ih, Memory.read]
      by_cases ha : a = j
      · simp [ha]
      · simp [ha, Ne.symm ha]
    · simp only [Memory.erase, hj, if_false, Memory.insert]
      by_cases hk : k < j
      · by_cases ha : a = k
        · simp [hk, Memory.read, ha]
        · simp [hk, Memory.read, ha, Ne.symm ha, Memory.read_erase]
      · by_cases ha : a = k
        · subst ha
          simpa [hk, Memory.read, hj] using ih
        · simp [hk, Memory.read, ih, ha]

/-- A read after a write: the value at the address written, the old value anywhere else (R34). -/
theorem Memory.read_write (a k : Nat) (v : Byte) (m : Memory) :
    Memory.read a (Memory.write k v m) = if a = k then v else Memory.read a m := by
  unfold Memory.write
  split
  · next h => rw [Memory.read_erase, h]
  · exact Memory.read_insert_erase a k v m

@[simp] theorem Memory.read_write_same (a : Nat) (v : Byte) (m : Memory) :
    Memory.read a (Memory.write a v m) = v := by simp [Memory.read_write]

theorem Memory.read_write_other (a k : Nat) (v : Byte) (m : Memory) (h : a ≠ k) :
    Memory.read a (Memory.write k v m) = Memory.read a m := by simp [Memory.read_write, h]

/-! ## The canonical form -/

theorem Memory.wfFrom_weaken (lo hi : Nat) (m : Memory) (h : lo ≤ hi) (hm : Memory.wfFrom hi m = true) :
    Memory.wfFrom lo m = true := by
  cases m with
  | nil => rfl
  | cons cell m =>
    simp only [Memory.wfFrom, Bool.and_eq_true, decide_eq_true_eq] at hm ⊢
    exact ⟨⟨⟨by omega, hm.1.1.2⟩, hm.1.2⟩, hm.2⟩

theorem Memory.wfFrom_erase (lo k : Nat) (m : Memory) (hm : Memory.wfFrom lo m = true) :
    Memory.wfFrom lo (Memory.erase k m) = true := by
  induction m generalizing lo with
  | nil => rfl
  | cons cell m ih =>
    obtain ⟨j, w⟩ := cell
    simp only [Memory.wfFrom, Bool.and_eq_true, decide_eq_true_eq] at hm
    unfold Memory.erase
    split
    · exact Memory.wfFrom_weaken lo (j + 1) _ (by omega) (ih (j + 1) hm.2)
    · simp only [Memory.wfFrom, Bool.and_eq_true, decide_eq_true_eq]
      exact ⟨hm.1, ih (j + 1) hm.2⟩

theorem Memory.erase_of_lt (k : Nat) (m : Memory) (hm : Memory.wfFrom (k + 1) m = true) :
    Memory.erase k m = m := by
  suffices h : ∀ lo, k < lo → Memory.wfFrom lo m = true → Memory.erase k m = m from h _ (by omega) hm
  clear hm
  induction m with
  | nil => intros; rfl
  | cons cell m ih =>
    obtain ⟨j, w⟩ := cell
    intro lo hlo hm
    simp only [Memory.wfFrom, Bool.and_eq_true, decide_eq_true_eq] at hm
    have hj : j ≠ k := by omega
    simp only [Memory.erase, hj, if_false]
    rw [ih (j + 1) (by omega) hm.2]

theorem Memory.wfFrom_insert_erase (lo k : Nat) (v : Byte) (m : Memory) (hlo : lo ≤ k) (hk : k < addressCount)
    (hv : v ≠ unwrittenByte) (hm : Memory.wfFrom lo m = true) :
    Memory.wfFrom lo (Memory.insert k v (Memory.erase k m)) = true := by
  induction m generalizing lo with
  | nil => simp [Memory.erase, Memory.insert, Memory.wfFrom, hlo, hk, hv]
  | cons cell m ih =>
    obtain ⟨j, w⟩ := cell
    simp only [Memory.wfFrom, Bool.and_eq_true, decide_eq_true_eq] at hm
    obtain ⟨⟨⟨h1, h2⟩, h3⟩, h4⟩ := hm
    by_cases hj : j = k
    · subst hj
      simp only [Memory.erase, if_true]
      rw [Memory.erase_of_lt j m h4]
      cases m with
      | nil => simp [Memory.insert, Memory.wfFrom, hlo, hk, hv]
      | cons cell' m' =>
        obtain ⟨i, u⟩ := cell'
        have hi := h4
        simp only [Memory.wfFrom, Bool.and_eq_true, decide_eq_true_eq] at hi
        have : j < i := by omega
        simp only [Memory.insert, this, if_true]
        simp only [Memory.wfFrom, Bool.and_eq_true, decide_eq_true_eq, bne_iff_ne, ne_eq]
        exact ⟨⟨⟨hlo, hk⟩, hv⟩, ⟨⟨⟨by omega, hi.1.1.2⟩, by simpa using hi.1.2⟩, hi.2⟩⟩
    · simp only [Memory.erase, hj, if_false, Memory.insert]
      by_cases hkj : k < j
      · simp only [hkj, if_true]
        rw [Memory.erase_of_lt k m (Memory.wfFrom_weaken (k + 1) (j + 1) m (by omega) h4)]
        simp only [Memory.wfFrom, Bool.and_eq_true, decide_eq_true_eq, bne_iff_ne, ne_eq]
        exact ⟨⟨⟨hlo, hk⟩, hv⟩, ⟨⟨⟨by omega, h2⟩, by simpa using h3⟩, h4⟩⟩
      · simp only [hkj, if_false, Memory.wfFrom, Bool.and_eq_true, decide_eq_true_eq]
        exact ⟨⟨⟨h1, h2⟩, h3⟩, ih (j + 1) (by omega) h4⟩

/-- A write to a legal address keeps the canonical form. -/
theorem Memory.wf_write (k : Nat) (v : Byte) (m : Memory) (hk : k < addressCount) (hm : Memory.wf m = true) :
    Memory.wf (Memory.write k v m) = true := by
  unfold Memory.write
  split
  · exact Memory.wfFrom_erase 0 k m hm
  · next hv => exact Memory.wfFrom_insert_erase 0 k v m (by omega) hk hv hm

/-- In canonical form, an address below the first listed one reads as unwritten. -/
theorem Memory.read_of_lt (a lo : Nat) (m : Memory) (h : a < lo) (hm : Memory.wfFrom lo m = true) :
    Memory.read a m = unwrittenByte := by
  induction m generalizing lo with
  | nil => rfl
  | cons cell m ih =>
    obtain ⟨j, w⟩ := cell
    simp only [Memory.wfFrom, Bool.and_eq_true, decide_eq_true_eq] at hm
    have : j ≠ a := by omega
    simp only [Memory.read, this, if_false]
    exact ih (j + 1) (by omega) hm.2

theorem Memory.eq_of_read_eq_from (lo : Nat) (m m' : Memory) (hm : Memory.wfFrom lo m = true)
    (hm' : Memory.wfFrom lo m' = true) (h : ∀ a, Memory.read a m = Memory.read a m') : m = m' := by
  induction m generalizing lo m' with
  | nil =>
    cases m' with
    | nil => rfl
    | cons cell m' =>
      obtain ⟨j, w⟩ := cell
      simp only [Memory.wfFrom, Bool.and_eq_true, decide_eq_true_eq, bne_iff_ne, ne_eq] at hm'
      have := h j
      simp only [Memory.read, if_true] at this
      exact absurd this.symm hm'.1.2
  | cons cell m ih =>
    obtain ⟨j, w⟩ := cell
    cases m' with
    | nil =>
      simp only [Memory.wfFrom, Bool.and_eq_true, decide_eq_true_eq, bne_iff_ne, ne_eq] at hm
      have := h j
      simp only [Memory.read, if_true] at this
      exact absurd this hm.1.2
    | cons cell' m' =>
      obtain ⟨j', w'⟩ := cell'
      simp only [Memory.wfFrom, Bool.and_eq_true, decide_eq_true_eq, bne_iff_ne, ne_eq] at hm hm'
      have hj : j = j' := by
        rcases Nat.lt_trichotomy j j' with hlt | heq | hgt
        · have := h j
          have hne : j' ≠ j := by omega
          simp only [Memory.read, if_true, hne, if_false] at this
          rw [Memory.read_of_lt j (j' + 1) m' (by omega) hm'.2] at this
          exact absurd this hm.1.2
        · exact heq
        · have := h j'
          have hne : j ≠ j' := by omega
          simp only [Memory.read, if_true, hne, if_false] at this
          rw [Memory.read_of_lt j' (j + 1) m (by omega) hm.2] at this
          exact absurd this.symm hm'.1.2
      subst hj
      have hw : w = w' := by simpa [Memory.read] using h j
      subst hw
      have : m = m' := by
        refine ih (j + 1) m' hm.2 hm'.2 fun a => ?_
        by_cases ha : j = a
        · subst ha
          rw [Memory.read_of_lt j (j + 1) m (by omega) hm.2, Memory.read_of_lt j (j + 1) m' (by omega) hm'.2]
        · simpa [Memory.read, ha] using h a
      rw [this]

/-- Memories in canonical form that read the same everywhere are the same data. -/
theorem Memory.eq_of_read_eq (m m' : Memory) (hm : Memory.wf m = true) (hm' : Memory.wf m' = true)
    (h : ∀ a, Memory.read a m = Memory.read a m') : m = m' :=
  Memory.eq_of_read_eq_from 0 m m' hm hm' h

end Sys2Proof.Machine
end

