-- ==== Sys2Proof/Laws/Ops.lean ====
section
/-! SUPPORT. One spec lemma per operation of Machine/Ops.lean: what it answers, and every field it leaves alone. -/

namespace Sys2Proof.Machine

/-! ## The base store -/

@[simp] theorem baseRead_putPc (a : Word) (t : Word) (s : State) : baseRead a (s.putPc t) = baseRead a s := rfl
@[simp] theorem baseRead_putSp (a : Word) (t : Byte) (s : State) : baseRead a (s.putSp t) = baseRead a s := rfl

/-- A read of the base store depends on the memory alone (R33). -/
theorem baseRead_congr (a : Word) (s t : State) (h : s.mem = t.mem) : baseRead a s = baseRead a t := by
  simp [baseRead, h]

theorem baseRead_baseWrite (a k : Word) (v : Byte) (s : State) :
    baseRead a (baseWrite k v s) = if a = k then v else baseRead a s := by
  simp only [baseRead, baseWrite, State.putMem_mem, Memory.read_write, BitVec.toNat_inj]

@[simp] theorem baseWrite_a (k : Word) (v : Byte) (s : State) : (baseWrite k v s).a = s.a := by
  rfl
@[simp] theorem baseWrite_x (k : Word) (v : Byte) (s : State) : (baseWrite k v s).x = s.x := by
  rfl
@[simp] theorem baseWrite_y (k : Word) (v : Byte) (s : State) : (baseWrite k v s).y = s.y := by
  rfl
@[simp] theorem baseWrite_c (k : Word) (v : Byte) (s : State) : (baseWrite k v s).c = s.c := by
  rfl
@[simp] theorem baseWrite_n (k : Word) (v : Byte) (s : State) : (baseWrite k v s).n = s.n := by
  rfl
@[simp] theorem baseWrite_z (k : Word) (v : Byte) (s : State) : (baseWrite k v s).z = s.z := by
  rfl
@[simp] theorem baseWrite_pc (k : Word) (v : Byte) (s : State) : (baseWrite k v s).pc = s.pc := by
  rfl
@[simp] theorem baseWrite_sp (k : Word) (v : Byte) (s : State) : (baseWrite k v s).sp = s.sp := by
  rfl
@[simp] theorem baseWrite_run (k : Word) (v : Byte) (s : State) : (baseWrite k v s).run = s.run := by
  rfl
@[simp] theorem baseWrite_started (k : Word) (v : Byte) (s : State) : (baseWrite k v s).started = s.started := by
  rfl
@[simp] theorem baseWrite_randCalls (k : Word) (v : Byte) (s : State) : (baseWrite k v s).randCalls = s.randCalls := by
  rfl
@[simp] theorem baseWrite_keyCalls (k : Word) (v : Byte) (s : State) : (baseWrite k v s).keyCalls = s.keyCalls := by
  rfl
@[simp] theorem baseWrite_calls (k : Word) (v : Byte) (s : State) : (baseWrite k v s).calls = s.calls := by
  rfl

@[simp] theorem baseWrite_mem (k : Word) (v : Byte) (s : State) :
    (baseWrite k v s).mem = Memory.write k.toNat v s.mem := rfl

/-! ## The memory-mapped I/O controller -/

/-- A read at a plain address is the base store's and changes nothing (R42). -/
theorem memRead_plain (a : Word) (s : State) (hr : a ≠ randAddress) (hk : a ≠ keyAddress) :
    memRead a s = (baseRead a s, s) := by
  unfold memRead
  rw [if_neg hr, if_neg hk]

theorem memRead_rand (s : State) : memRead randAddress s = (Config.randAnswer s.randCalls, s.callRand) := by
  unfold memRead
  rw [if_pos rfl]

theorem memRead_key (s : State) : memRead keyAddress s = (Config.keyAnswer s.keyCalls, s.callKey) := by
  unfold memRead
  rw [if_neg (by decide), if_pos rfl]

@[simp] theorem memRead_a (a : Word) (s : State) : ((memRead a s).2).a = s.a := by
  unfold memRead; split <;> [skip; split] <;> rfl
@[simp] theorem memRead_x (a : Word) (s : State) : ((memRead a s).2).x = s.x := by
  unfold memRead; split <;> [skip; split] <;> rfl
@[simp] theorem memRead_y (a : Word) (s : State) : ((memRead a s).2).y = s.y := by
  unfold memRead; split <;> [skip; split] <;> rfl
@[simp] theorem memRead_c (a : Word) (s : State) : ((memRead a s).2).c = s.c := by
  unfold memRead; split <;> [skip; split] <;> rfl
@[simp] theorem memRead_n (a : Word) (s : State) : ((memRead a s).2).n = s.n := by
  unfold memRead; split <;> [skip; split] <;> rfl
@[simp] theorem memRead_z (a : Word) (s : State) : ((memRead a s).2).z = s.z := by
  unfold memRead; split <;> [skip; split] <;> rfl
@[simp] theorem memRead_pc (a : Word) (s : State) : ((memRead a s).2).pc = s.pc := by
  unfold memRead; split <;> [skip; split] <;> rfl
@[simp] theorem memRead_sp (a : Word) (s : State) : ((memRead a s).2).sp = s.sp := by
  unfold memRead; split <;> [skip; split] <;> rfl
@[simp] theorem memRead_mem (a : Word) (s : State) : ((memRead a s).2).mem = s.mem := by
  unfold memRead; split <;> [skip; split] <;> rfl
@[simp] theorem memRead_run (a : Word) (s : State) : ((memRead a s).2).run = s.run := by
  unfold memRead; split <;> [skip; split] <;> rfl
@[simp] theorem memRead_started (a : Word) (s : State) : ((memRead a s).2).started = s.started := by
  unfold memRead; split <;> [skip; split] <;> rfl

@[simp] theorem memWrite_a (k : Word) (v : Byte) (s : State) : (memWrite k v s).a = s.a := by
  unfold memWrite; split <;> rfl
@[simp] theorem memWrite_x (k : Word) (v : Byte) (s : State) : (memWrite k v s).x = s.x := by
  unfold memWrite; split <;> rfl
@[simp] theorem memWrite_y (k : Word) (v : Byte) (s : State) : (memWrite k v s).y = s.y := by
  unfold memWrite; split <;> rfl
@[simp] theorem memWrite_c (k : Word) (v : Byte) (s : State) : (memWrite k v s).c = s.c := by
  unfold memWrite; split <;> rfl
@[simp] theorem memWrite_n (k : Word) (v : Byte) (s : State) : (memWrite k v s).n = s.n := by
  unfold memWrite; split <;> rfl
@[simp] theorem memWrite_z (k : Word) (v : Byte) (s : State) : (memWrite k v s).z = s.z := by
  unfold memWrite; split <;> rfl
@[simp] theorem memWrite_pc (k : Word) (v : Byte) (s : State) : (memWrite k v s).pc = s.pc := by
  unfold memWrite; split <;> rfl
@[simp] theorem memWrite_sp (k : Word) (v : Byte) (s : State) : (memWrite k v s).sp = s.sp := by
  unfold memWrite; split <;> rfl
@[simp] theorem memWrite_run (k : Word) (v : Byte) (s : State) : (memWrite k v s).run = s.run := by
  unfold memWrite; split <;> rfl
@[simp] theorem memWrite_started (k : Word) (v : Byte) (s : State) : (memWrite k v s).started = s.started := by
  unfold memWrite; split <;> rfl
@[simp] theorem memWrite_randCalls (k : Word) (v : Byte) (s : State) : (memWrite k v s).randCalls = s.randCalls := by
  unfold memWrite; split <;> rfl
@[simp] theorem memWrite_keyCalls (k : Word) (v : Byte) (s : State) : (memWrite k v s).keyCalls = s.keyCalls := by
  unfold memWrite; split <;> rfl

@[simp] theorem memWrite_mem (k : Word) (v : Byte) (s : State) :
    (memWrite k v s).mem = Memory.write k.toNat v s.mem := by
  unfold memWrite; split <;> rfl

theorem memWrite_calls (k : Word) (v : Byte) (s : State) :
    (memWrite k v s).calls =
      if inFramebuffer k then .fbUpdate (pixelColumn k) (pixelRow k) (pixelColour v) :: s.calls else s.calls := by
  unfold memWrite; split <;> rfl

theorem baseRead_memWrite (a k : Word) (v : Byte) (s : State) :
    baseRead a (memWrite k v s) = if a = k then v else baseRead a s := by
  rw [← baseRead_baseWrite]
  exact baseRead_congr a _ _ (by simp)

/-! ## Fetch -/

theorem fetchNext_pc (s : State) : (fetchNext s).2.pc = s.pc + 1#16 := rfl

@[simp] theorem fetchNext_a (s : State) : ((fetchNext s).2).a = s.a := by
  simp [fetchNext]
@[simp] theorem fetchNext_x (s : State) : ((fetchNext s).2).x = s.x := by
  simp [fetchNext]
@[simp] theorem fetchNext_y (s : State) : ((fetchNext s).2).y = s.y := by
  simp [fetchNext]
@[simp] theorem fetchNext_c (s : State) : ((fetchNext s).2).c = s.c := by
  simp [fetchNext]
@[simp] theorem fetchNext_n (s : State) : ((fetchNext s).2).n = s.n := by
  simp [fetchNext]
@[simp] theorem fetchNext_z (s : State) : ((fetchNext s).2).z = s.z := by
  simp [fetchNext]
@[simp] theorem fetchNext_sp (s : State) : ((fetchNext s).2).sp = s.sp := by
  simp [fetchNext]
@[simp] theorem fetchNext_mem (s : State) : ((fetchNext s).2).mem = s.mem := by
  simp [fetchNext]
@[simp] theorem fetchNext_run (s : State) : ((fetchNext s).2).run = s.run := by
  simp [fetchNext]
@[simp] theorem fetchNext_started (s : State) : ((fetchNext s).2).started = s.started := by
  simp [fetchNext]

/-- A fetch from a plain address (R37). -/
theorem fetchNext_plain (s : State) (hr : s.pc ≠ randAddress) (hk : s.pc ≠ keyAddress) :
    fetchNext s = (baseRead s.pc s, s.putPc (s.pc + 1#16)) := by
  simp [fetchNext, memRead_plain _ s hr hk]

theorem fetchBytes_pc (k : Nat) (s : State) : (fetchBytes k s).2.pc = s.pc + BitVec.ofNat 16 k := by
  induction k generalizing s with
  | zero => simp [fetchBytes]
  | succ k ih =>
    simp only [fetchBytes, ih, fetchNext_pc]
    have one : BitVec.toNat 1#16 = 1 := rfl
    apply BitVec.eq_of_toNat_eq
    simp only [BitVec.toNat_add, BitVec.toNat_ofNat, one]
    omega

theorem fetchBytes_length (k : Nat) (s : State) : (fetchBytes k s).1.length = k := by
  induction k generalizing s with
  | zero => rfl
  | succ k ih => simp [fetchBytes, ih]

@[simp] theorem fetchBytes_a (k : Nat) (s : State) : (fetchBytes k s).2.a = s.a := by
  induction k generalizing s with
  | zero => rfl
  | succ k ih => simp [fetchBytes, ih]
@[simp] theorem fetchBytes_x (k : Nat) (s : State) : (fetchBytes k s).2.x = s.x := by
  induction k generalizing s with
  | zero => rfl
  | succ k ih => simp [fetchBytes, ih]
@[simp] theorem fetchBytes_y (k : Nat) (s : State) : (fetchBytes k s).2.y = s.y := by
  induction k generalizing s with
  | zero => rfl
  | succ k ih => simp [fetchBytes, ih]
@[simp] theorem fetchBytes_c (k : Nat) (s : State) : (fetchBytes k s).2.c = s.c := by
  induction k generalizing s with
  | zero => rfl
  | succ k ih => simp [fetchBytes, ih]
@[simp] theorem fetchBytes_n (k : Nat) (s : State) : (fetchBytes k s).2.n = s.n := by
  induction k generalizing s with
  | zero => rfl
  | succ k ih => simp [fetchBytes, ih]
@[simp] theorem fetchBytes_z (k : Nat) (s : State) : (fetchBytes k s).2.z = s.z := by
  induction k generalizing s with
  | zero => rfl
  | succ k ih => simp [fetchBytes, ih]
@[simp] theorem fetchBytes_sp (k : Nat) (s : State) : (fetchBytes k s).2.sp = s.sp := by
  induction k generalizing s with
  | zero => rfl
  | succ k ih => simp [fetchBytes, ih]
@[simp] theorem fetchBytes_mem (k : Nat) (s : State) : (fetchBytes k s).2.mem = s.mem := by
  induction k generalizing s with
  | zero => rfl
  | succ k ih => simp [fetchBytes, ih]
@[simp] theorem fetchBytes_run (k : Nat) (s : State) : (fetchBytes k s).2.run = s.run := by
  induction k generalizing s with
  | zero => rfl
  | succ k ih => simp [fetchBytes, ih]
@[simp] theorem fetchBytes_started (k : Nat) (s : State) : (fetchBytes k s).2.started = s.started := by
  induction k generalizing s with
  | zero => rfl
  | succ k ih => simp [fetchBytes, ih]

/-! ## The stack -/

theorem toNat_stackAddress (sp : Byte) : (stackAddress sp).toNat = 256 + sp.toNat := by
  have := sp.isLt
  have base : BitVec.toNat stackBase = 256 := rfl
  simp only [stackAddress, BitVec.toNat_add, toNat_zext16, base]
  omega

theorem stackAddress_injective (p q : Byte) (h : stackAddress p = stackAddress q) : p = q := by
  have h' := congrArg BitVec.toNat h
  simp only [toNat_stackAddress] at h'
  exact BitVec.eq_of_toNat_eq (by omega)

/-- No stack byte is an intercepted address (R41, R42). -/
theorem stackAddress_ne_rand (sp : Byte) : stackAddress sp ≠ randAddress := by
  intro h
  have h' := congrArg BitVec.toNat h
  rw [toNat_stackAddress] at h'
  simp at h'
  omega

theorem stackAddress_ne_key (sp : Byte) : stackAddress sp ≠ keyAddress := by
  intro h
  have h' := congrArg BitVec.toNat h
  rw [toNat_stackAddress] at h'
  simp at h'
  omega

/-- No stack byte is a pixel (R41, R46). -/
@[simp] theorem inFramebuffer_stackAddress (sp : Byte) : inFramebuffer (stackAddress sp) = false := by
  have := sp.isLt
  simp only [inFramebuffer, toNat_stackAddress, Bool.and_eq_false_iff, decide_eq_false_iff_not]
  left
  simp
  omega

/-- All that a push does (R48): one byte of the base store and `sp`, and no collaborator call. -/
theorem push_eq (v : Byte) (s : State) :
    push v s = (baseWrite (stackAddress s.sp) v s).putSp (s.sp - 1#8) := by
  simp [push, memWrite]

/-- All that a pull does (R49): `sp` moves, then the base store is read, with no collaborator call. -/
theorem pull_eq (s : State) : pull s = (baseRead (stackAddress (s.sp + 1#8)) s, s.putSp (s.sp + 1#8)) := by
  simp [pull, memRead_plain _ _ (stackAddress_ne_rand _) (stackAddress_ne_key _)]

@[simp] theorem push_a (v : Byte) (s : State) : (push v s).a = s.a := by
  simp [push_eq]
@[simp] theorem push_x (v : Byte) (s : State) : (push v s).x = s.x := by
  simp [push_eq]
@[simp] theorem push_y (v : Byte) (s : State) : (push v s).y = s.y := by
  simp [push_eq]
@[simp] theorem push_c (v : Byte) (s : State) : (push v s).c = s.c := by
  simp [push_eq]
@[simp] theorem push_n (v : Byte) (s : State) : (push v s).n = s.n := by
  simp [push_eq]
@[simp] theorem push_z (v : Byte) (s : State) : (push v s).z = s.z := by
  simp [push_eq]
@[simp] theorem push_pc (v : Byte) (s : State) : (push v s).pc = s.pc := by
  simp [push_eq]
@[simp] theorem push_run (v : Byte) (s : State) : (push v s).run = s.run := by
  simp [push_eq]
@[simp] theorem push_started (v : Byte) (s : State) : (push v s).started = s.started := by
  simp [push_eq]
@[simp] theorem push_randCalls (v : Byte) (s : State) : (push v s).randCalls = s.randCalls := by
  simp [push_eq]
@[simp] theorem push_keyCalls (v : Byte) (s : State) : (push v s).keyCalls = s.keyCalls := by
  simp [push_eq]
@[simp] theorem push_calls (v : Byte) (s : State) : (push v s).calls = s.calls := by
  simp [push_eq]

@[simp] theorem push_sp (v : Byte) (s : State) : (push v s).sp = s.sp - 1#8 := rfl

theorem baseRead_push (a : Word) (v : Byte) (s : State) :
    baseRead a (push v s) = if a = stackAddress s.sp then v else baseRead a s := by
  rw [push_eq, baseRead_putSp, baseRead_baseWrite]

/-- All that `returnFromSubroutine` does (R53). -/
theorem returnFromSubroutine_eq (s : State) :
    returnFromSubroutine s =
      ((s.putSp (s.sp + 1#8 + 1#8)).putPc
        (toWord (baseRead (stackAddress (s.sp + 1#8 + 1#8)) s) (baseRead (stackAddress (s.sp + 1#8)) s))) := by
  simp [returnFromSubroutine, pull_eq, jump]
  rfl

end Sys2Proof.Machine
end

