-- ==== Sys2Proof/Laws/Operands.lean ====
section
/-! SUPPORT. What the address_resolver leaves alone: a resolution changes nothing but the record of its collaborator
calls (40_addressing_modes.md: "The resolver never writes a register, a flag or memory"). -/

namespace Sys2Proof.Machine

@[simp] theorem readPointer_a (p : Byte) (s : State) : ((readPointer p s).2).a = s.a := by
  simp [readPointer]
@[simp] theorem readPointer_x (p : Byte) (s : State) : ((readPointer p s).2).x = s.x := by
  simp [readPointer]
@[simp] theorem readPointer_y (p : Byte) (s : State) : ((readPointer p s).2).y = s.y := by
  simp [readPointer]
@[simp] theorem readPointer_c (p : Byte) (s : State) : ((readPointer p s).2).c = s.c := by
  simp [readPointer]
@[simp] theorem readPointer_n (p : Byte) (s : State) : ((readPointer p s).2).n = s.n := by
  simp [readPointer]
@[simp] theorem readPointer_z (p : Byte) (s : State) : ((readPointer p s).2).z = s.z := by
  simp [readPointer]
@[simp] theorem readPointer_pc (p : Byte) (s : State) : ((readPointer p s).2).pc = s.pc := by
  simp [readPointer]
@[simp] theorem readPointer_sp (p : Byte) (s : State) : ((readPointer p s).2).sp = s.sp := by
  simp [readPointer]
@[simp] theorem readPointer_mem (p : Byte) (s : State) : ((readPointer p s).2).mem = s.mem := by
  simp [readPointer]
@[simp] theorem readPointer_run (p : Byte) (s : State) : ((readPointer p s).2).run = s.run := by
  simp [readPointer]
@[simp] theorem readPointer_started (p : Byte) (s : State) : ((readPointer p s).2).started = s.started := by
  simp [readPointer]

@[simp] theorem resolveIndexedIndirect_a (b : Byte) (s : State) : ((resolveIndexedIndirect b s).2).a = s.a := by
  simp [resolveIndexedIndirect]
@[simp] theorem resolveIndexedIndirect_x (b : Byte) (s : State) : ((resolveIndexedIndirect b s).2).x = s.x := by
  simp [resolveIndexedIndirect]
@[simp] theorem resolveIndexedIndirect_y (b : Byte) (s : State) : ((resolveIndexedIndirect b s).2).y = s.y := by
  simp [resolveIndexedIndirect]
@[simp] theorem resolveIndexedIndirect_c (b : Byte) (s : State) : ((resolveIndexedIndirect b s).2).c = s.c := by
  simp [resolveIndexedIndirect]
@[simp] theorem resolveIndexedIndirect_n (b : Byte) (s : State) : ((resolveIndexedIndirect b s).2).n = s.n := by
  simp [resolveIndexedIndirect]
@[simp] theorem resolveIndexedIndirect_z (b : Byte) (s : State) : ((resolveIndexedIndirect b s).2).z = s.z := by
  simp [resolveIndexedIndirect]
@[simp] theorem resolveIndexedIndirect_pc (b : Byte) (s : State) : ((resolveIndexedIndirect b s).2).pc = s.pc := by
  simp [resolveIndexedIndirect]
@[simp] theorem resolveIndexedIndirect_sp (b : Byte) (s : State) : ((resolveIndexedIndirect b s).2).sp = s.sp := by
  simp [resolveIndexedIndirect]
@[simp] theorem resolveIndexedIndirect_mem (b : Byte) (s : State) : ((resolveIndexedIndirect b s).2).mem = s.mem := by
  simp [resolveIndexedIndirect]
@[simp] theorem resolveIndexedIndirect_run (b : Byte) (s : State) : ((resolveIndexedIndirect b s).2).run = s.run := by
  simp [resolveIndexedIndirect]
@[simp] theorem resolveIndexedIndirect_started (b : Byte) (s : State) : ((resolveIndexedIndirect b s).2).started = s.started := by
  simp [resolveIndexedIndirect]

@[simp] theorem resolveIndirectIndexed_a (b : Byte) (s : State) : ((resolveIndirectIndexed b s).2).a = s.a := by
  simp [resolveIndirectIndexed]
@[simp] theorem resolveIndirectIndexed_x (b : Byte) (s : State) : ((resolveIndirectIndexed b s).2).x = s.x := by
  simp [resolveIndirectIndexed]
@[simp] theorem resolveIndirectIndexed_y (b : Byte) (s : State) : ((resolveIndirectIndexed b s).2).y = s.y := by
  simp [resolveIndirectIndexed]
@[simp] theorem resolveIndirectIndexed_c (b : Byte) (s : State) : ((resolveIndirectIndexed b s).2).c = s.c := by
  simp [resolveIndirectIndexed]
@[simp] theorem resolveIndirectIndexed_n (b : Byte) (s : State) : ((resolveIndirectIndexed b s).2).n = s.n := by
  simp [resolveIndirectIndexed]
@[simp] theorem resolveIndirectIndexed_z (b : Byte) (s : State) : ((resolveIndirectIndexed b s).2).z = s.z := by
  simp [resolveIndirectIndexed]
@[simp] theorem resolveIndirectIndexed_pc (b : Byte) (s : State) : ((resolveIndirectIndexed b s).2).pc = s.pc := by
  simp [resolveIndirectIndexed]
@[simp] theorem resolveIndirectIndexed_sp (b : Byte) (s : State) : ((resolveIndirectIndexed b s).2).sp = s.sp := by
  simp [resolveIndirectIndexed]
@[simp] theorem resolveIndirectIndexed_mem (b : Byte) (s : State) : ((resolveIndirectIndexed b s).2).mem = s.mem := by
  simp [resolveIndirectIndexed]
@[simp] theorem resolveIndirectIndexed_run (b : Byte) (s : State) : ((resolveIndirectIndexed b s).2).run = s.run := by
  simp [resolveIndirectIndexed]
@[simp] theorem resolveIndirectIndexed_started (b : Byte) (s : State) : ((resolveIndirectIndexed b s).2).started = s.started := by
  simp [resolveIndirectIndexed]

/-- The mode reads nothing but its operand bytes. -/
@[simp] theorem resolveRelative_state (offset : Byte) (s : State) : (resolveRelative offset s).2 = s := rfl

/-- The mode reads nothing but its operand bytes. -/
@[simp] theorem resolveImmediate_state (s : State) : (resolveImmediate s).2 = s := rfl

/-- The mode reads nothing but its operand bytes. -/
@[simp] theorem resolveZeroPage_state (b : Byte) (s : State) : (resolveZeroPage b s).2 = s := rfl

/-- The mode reads nothing but its operand bytes. -/
@[simp] theorem resolveZeroPageX_state (b : Byte) (s : State) : (resolveZeroPageX b s).2 = s := rfl

/-- The mode reads nothing but its operand bytes. -/
@[simp] theorem resolveAbsolute_state (addr : Word) (s : State) : (resolveAbsolute addr s).2 = s := rfl

@[simp] theorem resolve_a (o : Operand) (s : State) : ((resolve o s).2).a = s.a := by
  cases o <;> simp [resolve]
@[simp] theorem resolve_x (o : Operand) (s : State) : ((resolve o s).2).x = s.x := by
  cases o <;> simp [resolve]
@[simp] theorem resolve_y (o : Operand) (s : State) : ((resolve o s).2).y = s.y := by
  cases o <;> simp [resolve]
@[simp] theorem resolve_c (o : Operand) (s : State) : ((resolve o s).2).c = s.c := by
  cases o <;> simp [resolve]
@[simp] theorem resolve_n (o : Operand) (s : State) : ((resolve o s).2).n = s.n := by
  cases o <;> simp [resolve]
@[simp] theorem resolve_z (o : Operand) (s : State) : ((resolve o s).2).z = s.z := by
  cases o <;> simp [resolve]
@[simp] theorem resolve_pc (o : Operand) (s : State) : ((resolve o s).2).pc = s.pc := by
  cases o <;> simp [resolve]
@[simp] theorem resolve_sp (o : Operand) (s : State) : ((resolve o s).2).sp = s.sp := by
  cases o <;> simp [resolve]
@[simp] theorem resolve_mem (o : Operand) (s : State) : ((resolve o s).2).mem = s.mem := by
  cases o <;> simp [resolve]
@[simp] theorem resolve_run (o : Operand) (s : State) : ((resolve o s).2).run = s.run := by
  cases o <;> simp [resolve]
@[simp] theorem resolve_started (o : Operand) (s : State) : ((resolve o s).2).started = s.started := by
  cases o <;> simp [resolve]

/-- A pointer in plain zero-page bytes (R80, R81). -/
theorem readPointer_plain (p : Byte) (s : State) (h1 : zext16 p ≠ randAddress) (h2 : zext16 p ≠ keyAddress)
    (h3 : zext16 (p + 1#8) ≠ randAddress) (h4 : zext16 (p + 1#8) ≠ keyAddress) :
    readPointer p s = (toWord (baseRead (zext16 p) s) (baseRead (zext16 (p + 1#8)) s), s) := by
  simp only [readPointer, memRead_plain _ _ h1 h2, memRead_plain _ _ h3 h4]

end Sys2Proof.Machine
end

