-- ==== Sys2Proof/Laws/Bodies.lean ====
section
/-! SUPPORT. One equation per operation body of Machine/Bodies.lean: the whole next state, over bytes (R90 to R123). -/

namespace Sys2Proof.Machine

/-- A byte value written to a register, with N and Z from it. -/
theorem setReg_byte (r : Reg) (v : Byte) (s : State) :
    setReg r v.toNat s = (s.putNZ v.msb (v == 0#8)).putReg r v := by
  simp [setReg_eq]

theorem load_eq (r : Reg) (ea : Word) (s : State) :
    load r ea s =
      ((memRead ea s).2.putNZ (memRead ea s).1.msb ((memRead ea s).1 == 0#8)).putReg r (memRead ea s).1 :=
  setReg_byte _ _ _

theorem transfer_eq (source target : Reg) (s : State) :
    transfer source target s = (s.putNZ (s.reg source).msb (s.reg source == 0#8)).putReg target (s.reg source) :=
  setReg_byte _ _ _

theorem incrementRegister_eq (r : Reg) (s : State) :
    incrementRegister r s = (s.putNZ (s.reg r + 1#8).msb (s.reg r + 1#8 == 0#8)).putReg r (s.reg r + 1#8) := by
  simp only [incrementRegister, setReg_eq, truncate8_succ]

theorem decrementRegister_eq (r : Reg) (s : State) :
    decrementRegister r s = (s.putNZ (s.reg r - 1#8).msb (s.reg r - 1#8 == 0#8)).putReg r (s.reg r - 1#8) := by
  simp only [decrementRegister, setReg_eq, truncate8_pred]

theorem storeResult_eq (n : Int) (ea : Word) (s : State) :
    storeResult n ea s = memWrite ea (truncate8 n) (s.putNZ (truncate8 n).msb (truncate8 n == 0#8)) := rfl

theorem incrementMemory_eq (ea : Word) (s : State) :
    incrementMemory ea s =
      memWrite ea ((memRead ea s).1 + 1#8)
        ((memRead ea s).2.putNZ ((memRead ea s).1 + 1#8).msb ((memRead ea s).1 + 1#8 == 0#8)) := by
  simp only [incrementMemory, storeResult_eq, truncate8_succ]

theorem decrementMemory_eq (ea : Word) (s : State) :
    decrementMemory ea s =
      memWrite ea ((memRead ea s).1 - 1#8)
        ((memRead ea s).2.putNZ ((memRead ea s).1 - 1#8).msb ((memRead ea s).1 - 1#8 == 0#8)) := by
  simp only [decrementMemory, storeResult_eq, truncate8_pred]

/-- `v >> 1` as a byte (R120). -/
theorem truncate8_shiftResult (v : Byte) : truncate8 (shiftResult v) = v >>> 1 := by
  apply BitVec.eq_of_toNat_eq
  have := v.isLt
  have h := toNat_truncate8 (shiftResult v)
  simp only [shiftResult] at h ⊢
  rw [BitVec.toNat_ushiftRight, Nat.shiftRight_eq_div_pow]
  omega

theorem shiftRightAccumulator_eq (s : State) :
    shiftRightAccumulator s =
      ((s.putC (s.a.getLsbD 0)).putNZ (s.a >>> 1).msb (s.a >>> 1 == 0#8)).putReg .a (s.a >>> 1) := by
  simp only [shiftRightAccumulator, setReg_eq, truncate8_shiftResult]
  rfl

theorem shiftRightMemory_eq (ea : Word) (s : State) :
    shiftRightMemory ea s =
      memWrite ea ((memRead ea s).1 >>> 1)
        (((memRead ea s).2.putC ((memRead ea s).1.getLsbD 0)).putNZ ((memRead ea s).1 >>> 1).msb
          ((memRead ea s).1 >>> 1 == 0#8)) := by
  simp only [shiftRightMemory, storeResult_eq, truncate8_shiftResult]
  rfl

theorem compare_eq (r : Reg) (ea : Word) (s : State) :
    compare r ea s =
      ((memRead ea s).2.putC (decide ((memRead ea s).1.toNat ≤ (s.reg r).toNat))).putNZ
        (s.reg r - (memRead ea s).1).msb (s.reg r - (memRead ea s).1 == 0#8) := by
  simp only [compare, compareFlags, setCarryIf, nz_state, truncate8_sub]

theorem andAccumulator_eq (ea : Word) (s : State) :
    andAccumulator ea s =
      ((memRead ea s).2.putNZ (s.a &&& (memRead ea s).1).msb (s.a &&& (memRead ea s).1 == 0#8)).putReg .a
        (s.a &&& (memRead ea s).1) :=
  setReg_byte _ _ _

/-- The sum as a byte (R122). -/
theorem toNat_truncate8_adcSum (a m : Byte) (c : Bool) :
    (truncate8 (adcSum a m c)).toNat = (a.toNat + m.toNat + c.toNat) % 256 := by
  have h := toNat_truncate8 (adcSum a m c)
  cases c <;> simp only [adcSum, flagInt, Bool.toNat_true, Bool.toNat_false] at h ⊢ <;> norm_num at h ⊢ <;> omega

/-- The difference as a byte: `A + (255 - M) + C`, mod 256 (R123). -/
theorem toNat_truncate8_sbcDifference (a m : Byte) (c : Bool) :
    (truncate8 (sbcDifference a m c)).toNat = (a.toNat + (255 - m.toNat) + c.toNat) % 256 := by
  have h := toNat_truncate8 (sbcDifference a m c)
  have := m.isLt
  cases c <;> simp only [sbcDifference, flagInt, Bool.toNat_true, Bool.toNat_false] at h ⊢ <;> norm_num at h ⊢ <;> omega

end Sys2Proof.Machine
end

