-- ==== Sys2Proof/Laws/Decode.lean ====
section
/-! SUPPORT. The descriptor table as a table: no opcode has two rows, the lookup finds exactly the listed rows, and a known
opcode followed by as many bytes as its mode consumes is an instruction (R63, R66, R83). -/

namespace Sys2Proof

/-- No two rows of R66 share an opcode byte. -/
theorem descriptorTable_opcodes_nodup : (descriptorTable.map fun r => r.opcode).Nodup := by decide

theorem find_row_iff (rows : List DescriptorRow) (h : (rows.map fun r => r.opcode).Nodup) (op : Byte) (d : Descriptor) :
    (rows.find? fun r => r.opcode == op).map (fun r => r.descriptor) = some d ↔ (⟨op, d⟩ : DescriptorRow) ∈ rows := by
  induction rows with
  | nil => simp
  | cons row rows ih =>
    obtain ⟨op', d'⟩ := row
    simp only [List.map_cons, List.nodup_cons, List.mem_map, not_exists, not_and] at h
    by_cases hop : op' = op
    · subst hop
      simp only [List.find?_cons, beq_self_eq_true, Option.map_some, Option.some.injEq, List.mem_cons,
        DescriptorRow.mk.injEq, true_and]
      constructor
      · intro hd
        exact .inl hd.symm
      · rintro (hd | hmem)
        · exact hd.symm
        · exact absurd rfl (h.1 _ hmem)
    · have : (op' == op) = false := by simpa using hop
      simp only [List.find?_cons, this, List.mem_cons, DescriptorRow.mk.injEq]
      rw [ih h.2]
      simp [Ne.symm hop]

/-- `Descriptor(op)` answers exactly the rows of the table (R66, R83). -/
theorem descriptor_eq_some_iff (op : Byte) (d : Descriptor) :
    descriptor op = some d ↔ (⟨op, d⟩ : DescriptorRow) ∈ descriptorTable :=
  find_row_iff _ descriptorTable_opcodes_nodup op d

/-- Exactly as many bytes as the mode consumes make an operand of that mode, and none remains (R63, R65). -/
theorem takeOperand_exact (m : Mode) (bytes : List Byte) (h : bytes.length = m.operandCount) :
    ∃ o, takeOperand m bytes = some (o, []) ∧ o.mode = m := by
  cases m <;> simp only [Mode.operandCount] at h
  · obtain rfl := List.eq_nil_of_length_eq_zero h
    exact ⟨_, rfl, rfl⟩
  · obtain ⟨b, rfl⟩ := List.length_eq_one_iff.mp h
    exact ⟨_, rfl, rfl⟩
  · obtain ⟨b, rfl⟩ := List.length_eq_one_iff.mp h
    exact ⟨_, rfl, rfl⟩
  · obtain ⟨b, rfl⟩ := List.length_eq_one_iff.mp h
    exact ⟨_, rfl, rfl⟩
  · obtain ⟨b, rfl⟩ := List.length_eq_one_iff.mp h
    exact ⟨_, rfl, rfl⟩
  · obtain ⟨lo, hi, rfl⟩ := List.length_eq_two.mp h
    exact ⟨_, rfl, rfl⟩
  · obtain ⟨b, rfl⟩ := List.length_eq_one_iff.mp h
    exact ⟨_, rfl, rfl⟩
  · obtain ⟨b, rfl⟩ := List.length_eq_one_iff.mp h
    exact ⟨_, rfl, rfl⟩

/-- Whether a pair is assembled depends on the operand's mode alone; this tries one operand of each mode. -/
def Mode.sample : Mode → Operand
  | .implicit => .implicit
  | .relative => .relative 0
  | .immediate => .immediate 0
  | .zeroPage => .zeroPage 0
  | .zeroPageX => .zeroPageX 0
  | .absolute => .absolute 0
  | .indexedIndirect => .indexedIndirect 0
  | .indirectIndexed => .indirectIndexed 0

theorem assemble_isSome_of_mode (m : Mnemonic) (o : Operand) :
    (assemble m o).isSome = (assemble m o.mode.sample).isSome := by
  cases m <;> cases o <;> rfl

/-- Every row of the table assembles with every operand of its mode (R66). -/
theorem assemble_of_row (op : Byte) (d : Descriptor) (o : Operand) (hd : descriptor op = some d) (ho : o.mode = d.mode) :
    ∃ i, assemble d.mnemonic o = some i := by
  have all : ∀ r ∈ descriptorTable, (assemble r.descriptor.mnemonic r.descriptor.mode.sample).isSome = true := by decide
  have := all _ ((descriptor_eq_some_iff op d).mp hd)
  rw [← Option.isSome_iff_exists, assemble_isSome_of_mode, ho]
  exact this

/-- What an assembled instruction is made of. -/
theorem assemble_parts (m : Mnemonic) (o : Operand) (i : Instr) (h : assemble m o = some i) :
    i.mnemonic = m ∧ i.operand = o := by
  cases m <;> cases o <;> cases h <;> exact ⟨rfl, rfl⟩

/-- A known opcode and exactly its mode's operand bytes are an instruction with that descriptor. -/
theorem decode_exact (op : Byte) (d : Descriptor) (bytes : List Byte) (hd : descriptor op = some d)
    (h : bytes.length = d.mode.operandCount) :
    ∃ i, decode (op :: bytes) = .ok (i, []) ∧ i.descriptor = d := by
  obtain ⟨o, ho, hm⟩ := takeOperand_exact d.mode bytes h
  obtain ⟨i, hi⟩ := assemble_of_row op d o hd hm
  refine ⟨i, ?_, ?_⟩
  · simp only [decode, hd, ho, hi]
  · obtain ⟨h1, h2⟩ := assemble_parts _ _ _ hi
    simp [Instr.descriptor, h1, h2, hm]

end Sys2Proof
end

