-- ==== Sys2Proof/Laws/Claims.lean ====
section
/-! SUPPORT. Lemmas about the terms of Safety.lean that statements are written in. -/

namespace Sys2Proof.Machine

theorem msb_eq_isNegative (v : Byte) : v.msb = isNegative v := by
  simp [isNegative, BitVec.msb_eq_decide]

theorem beq_zero_eq_isZero (v : Byte) : (v == 0#8) = isZero v := by
  rw [Bool.eq_iff_iff]
  simp [isZero, BitVec.toNat_eq]

theorem sext8_eq_signedOffset (b : Byte) : sext8 b = signedOffset b := rfl

/-- A mnemonic's forms read off the descriptor table: both premises are closed by `decide` on a literal list. -/
theorem decodesExactly_of_table (m : Mnemonic) (forms : List (Byte × Mode))
    (complete : ∀ r ∈ descriptorTable, r.descriptor.mnemonic = m → (r.opcode, r.descriptor.mode) ∈ forms)
    (sound : ∀ f ∈ forms, (⟨f.1, ⟨m, f.2⟩⟩ : DescriptorRow) ∈ descriptorTable) : DecodesExactly m forms := by
  intro op mode
  rw [descriptor_eq_some_iff]
  exact ⟨fun h => complete _ h rfl, fun h => sound _ h⟩

/-- The framebuffer test as one range of numbers (R46). -/
theorem inFramebuffer_eq (a : Word) : inFramebuffer a = decide (0x0200 ≤ a.toNat ∧ a.toNat ≤ 0x05FF) := by
  have first : BitVec.toNat framebufferFirst = 0x200 := rfl
  have last : BitVec.toNat framebufferLast = 0x5FF := rfl
  rw [inFramebuffer, first, last]
  simp

/-- `OnlyCellWritten` sees no more of the state before than its memory. -/
theorem onlyCellWritten_congr (ea : Word) (v : Byte) (s s' t : State) (h : s'.mem = s.mem)
    (hw : OnlyCellWritten ea v s' t) : OnlyCellWritten ea v s t := by
  intro a
  rw [hw a, baseRead_congr a s' s h]

theorem bytesAt_congr (count : Nat) (a : Word) (s t : State) (h : s.mem = t.mem) :
    bytesAt a count s = bytesAt a count t := by
  induction count generalizing a with
  | zero => rfl
  | succ count ih => rw [bytesAt, bytesAt, ih, baseRead_congr a s t h]

/-- Fetching over plain addresses reads the base store and only moves `pc` (R37). -/
theorem fetchBytes_plain (k : Nat) (s : State) (h : ∀ j, j < k → plainAddress (s.pc + BitVec.ofNat 16 j)) :
    fetchBytes k s = (bytesAt s.pc k s, s.putPc (s.pc + BitVec.ofNat 16 k)) := by
  induction k generalizing s with
  | zero =>
    simp only [fetchBytes, bytesAt, BitVec.add_zero]
    rfl
  | succ k ih =>
    have first : plainAddress s.pc := by simpa using h 0 (by omega)
    have next : ∀ j, s.pc + 1#16 + BitVec.ofNat 16 j = s.pc + BitVec.ofNat 16 (j + 1) := by
      intro j
      have one : BitVec.toNat 1#16 = 1 := rfl
      apply BitVec.eq_of_toNat_eq
      simp only [BitVec.toNat_add, BitVec.toNat_ofNat, one]
      omega
    simp only [fetchBytes, fetchNext_plain s first.1 first.2, bytesAt]
    rw [ih _ (by
      intro j hj
      simp only [State.putPc_pc, next]
      exact h (j + 1) (by omega))]
    simp only [State.putPc_pc, next]
    rw [bytesAt_congr k _ (s.putPc (s.pc + 1#16)) s rfl]
    rfl

/-- Placing bytes changes the base store and nothing else (R40). -/
theorem placeBytes_frame (bytes : List Byte) (a : Word) (s : State) :
    placeBytes a bytes s = { s with mem := (placeBytes a bytes s).mem } := by
  induction bytes generalizing a s with
  | nil => rfl
  | cons b bytes ih =>
    simp only [placeBytes]
    rw [ih]
    rfl

/-- Placing bytes keeps the canonical form. -/
theorem wf_placeBytes (bytes : List Byte) (a : Word) (s : State) (h : Memory.wf s.mem = true) :
    Memory.wf (placeBytes a bytes s).mem = true := by
  induction bytes generalizing a s with
  | nil => exact h
  | cons b bytes ih => exact ih _ _ (Memory.wf_write _ _ _ a.isLt h)

end Sys2Proof.Machine
end

