-- ==== Sys2Proof/Laws/Exec.lean ====
section
/-! SUPPORT. The shape of every meaning, once: an instruction with an effective address resolves it and runs its operation
body there (R72, R82); the others are implicit. Case splits over `exec` cite `exec_of_body`. -/

namespace Sys2Proof.Machine

/-- The operation body of an instruction that has an effective address (R84); none in Implicit mode. -/
def bodyOf (i : Instr) : Option (Word → State → State) :=
  match i.mnemonic with
  | .lda => some (load .a)
  | .ldx => some (load .x)
  | .ldy => some (load .y)
  | .sta => some (store .a)
  | .stx => some (store .x)
  | .sty => some (store .y)
  | .inc => some incrementMemory
  | .dec => some decrementMemory
  | .jmp => some jump
  | .jsr => some callSubroutine
  | .bpl => some (branchIf (fun s => !s.n))
  | .bmi => some (branchIf (fun s => s.n))
  | .bcc => some (branchIf (fun s => !s.c))
  | .bcs => some (branchIf (fun s => s.c))
  | .bne => some (branchIf (fun s => !s.z))
  | .beq => some (branchIf (fun s => s.z))
  | .cmp => some (compare .a)
  | .cpx => some (compare .x)
  | .cpy => some (compare .y)
  | .and => some andAccumulator
  | .bit => some bitTest
  | .lsr => if i.operand = .implicit then none else some shiftRightMemory
  | .adc => some addWithCarry
  | .sbc => some subtractWithCarry
  | .tax | .tay | .txa | .tya | .inx | .iny | .dex | .dey | .rts | .clc | .sec | .nop | .brk => none

/-- An instruction with a body answers the body at its effective address, in the state the resolution leaves. -/
theorem exec_of_body (i : Instr) (s : State) (body : Word → State → State) (h : bodyOf i = some body) :
    ∃ ea, (resolve i.operand s).1 = some ea ∧ exec i s = .next (body ea (resolve i.operand s).2) := by
  cases i <;> cases h <;> exact ⟨_, rfl, rfl⟩

end Sys2Proof.Machine
end

