-- ==== Sys2Proof/Laws/Fetch.lean ====
section
/-! SUPPORT. What fetching an instruction answers, and what one step can be: every later invariant cites `step_cases`. -/

namespace Sys2Proof.Machine

/-- An opcode without a descriptor halts the core after its one byte (R82, R128). -/
theorem fetchInstr_undecoded (s : State) (h : descriptor (fetchNext s).1 = none) :
    fetchInstr s = (none, raiseDecodeError (fetchNext s).1 s.pc (fetchNext s).2) := by
  simp only [fetchInstr, h]

/-- An opcode with a descriptor always fetches an instruction of that descriptor (R82). -/
theorem fetchInstr_decoded (s : State) (d : Descriptor) (h : descriptor (fetchNext s).1 = some d) :
    ∃ i, decode ((fetchNext s).1 :: (fetchBytes d.mode.operandCount (fetchNext s).2).1) = .ok (i, []) ∧
      i.descriptor = d ∧ fetchInstr s = (some i, (fetchBytes d.mode.operandCount (fetchNext s).2).2) := by
  obtain ⟨i, hi, hd⟩ := decode_exact (fetchNext s).1 d _ h (fetchBytes_length d.mode.operandCount (fetchNext s).2)
  exact ⟨i, hi, hd, by simp only [fetchInstr, h, hi]⟩

/-- All that a step can be: nothing while Halted, a decode error, or one decoded instruction (R82, R87). -/
theorem step_cases (s t : State) (h : step s = .next t) :
    (∃ r, s.run = .halted r ∧ t = s) ∨
    (s.run = .running ∧ descriptor (fetchNext s.markStarted).1 = none ∧
      t = raiseDecodeError (fetchNext s.markStarted).1 s.pc (fetchNext s.markStarted).2) ∨
    (∃ d i, s.run = .running ∧ descriptor (fetchNext s.markStarted).1 = some d ∧ i.descriptor = d ∧
      exec i (fetchBytes d.mode.operandCount (fetchNext s.markStarted).2).2 = .next t) := by
  unfold step at h
  cases hr : s.run with
  | halted r =>
    simp only [hr, Host.Outcome.next.injEq] at h
    exact .inl ⟨r, rfl, h.symm⟩
  | running =>
    simp only [hr] at h
    cases hd : descriptor (fetchNext s.markStarted).1 with
    | none =>
      simp only [fetchInstr_undecoded _ hd, Host.Outcome.next.injEq] at h
      exact .inr (.inl ⟨rfl, rfl, h.symm⟩)
    | some d =>
      obtain ⟨i, -, hi, hf⟩ := fetchInstr_decoded _ d hd
      simp only [hf] at h
      exact .inr (.inr ⟨d, i, rfl, rfl, hi, h⟩)

end Sys2Proof.Machine
end

