-- ==== Sys2Proof/Laws/PerInstr.lean ====
section
/-! SUPPORT. The family `Encoding`: what holds of every instruction as syntax, one lemma per constructor. -/

namespace Sys2Proof.Laws

/-- The instruction's pair is one its rule gives, and its opcode byte has exactly that pair as descriptor (R66, R83). -/
def Encoding.Statement (i : Instr) : Prop :=
  i.wellFormed = true ∧ descriptor i.opcode = some i.descriptor

theorem Encoding.ldaImm (b : Byte) : Encoding.Statement (.ldaImm b) := ⟨rfl, rfl⟩
theorem Encoding.ldaZp (b : Byte) : Encoding.Statement (.ldaZp b) := ⟨rfl, rfl⟩
theorem Encoding.ldaZpX (b : Byte) : Encoding.Statement (.ldaZpX b) := ⟨rfl, rfl⟩
theorem Encoding.ldaAbs (addr : Word) : Encoding.Statement (.ldaAbs addr) := ⟨rfl, rfl⟩
theorem Encoding.ldaIndX (b : Byte) : Encoding.Statement (.ldaIndX b) := ⟨rfl, rfl⟩
theorem Encoding.ldaIndY (b : Byte) : Encoding.Statement (.ldaIndY b) := ⟨rfl, rfl⟩
theorem Encoding.ldxImm (b : Byte) : Encoding.Statement (.ldxImm b) := ⟨rfl, rfl⟩
theorem Encoding.ldxZp (b : Byte) : Encoding.Statement (.ldxZp b) := ⟨rfl, rfl⟩
theorem Encoding.ldxAbs (addr : Word) : Encoding.Statement (.ldxAbs addr) := ⟨rfl, rfl⟩
theorem Encoding.ldyImm (b : Byte) : Encoding.Statement (.ldyImm b) := ⟨rfl, rfl⟩
theorem Encoding.ldyZp (b : Byte) : Encoding.Statement (.ldyZp b) := ⟨rfl, rfl⟩
theorem Encoding.ldyZpX (b : Byte) : Encoding.Statement (.ldyZpX b) := ⟨rfl, rfl⟩
theorem Encoding.ldyAbs (addr : Word) : Encoding.Statement (.ldyAbs addr) := ⟨rfl, rfl⟩
theorem Encoding.staZp (b : Byte) : Encoding.Statement (.staZp b) := ⟨rfl, rfl⟩
theorem Encoding.staZpX (b : Byte) : Encoding.Statement (.staZpX b) := ⟨rfl, rfl⟩
theorem Encoding.staAbs (addr : Word) : Encoding.Statement (.staAbs addr) := ⟨rfl, rfl⟩
theorem Encoding.staIndX (b : Byte) : Encoding.Statement (.staIndX b) := ⟨rfl, rfl⟩
theorem Encoding.staIndY (b : Byte) : Encoding.Statement (.staIndY b) := ⟨rfl, rfl⟩
theorem Encoding.stxZp (b : Byte) : Encoding.Statement (.stxZp b) := ⟨rfl, rfl⟩
theorem Encoding.stxAbs (addr : Word) : Encoding.Statement (.stxAbs addr) := ⟨rfl, rfl⟩
theorem Encoding.styZp (b : Byte) : Encoding.Statement (.styZp b) := ⟨rfl, rfl⟩
theorem Encoding.styZpX (b : Byte) : Encoding.Statement (.styZpX b) := ⟨rfl, rfl⟩
theorem Encoding.styAbs (addr : Word) : Encoding.Statement (.styAbs addr) := ⟨rfl, rfl⟩
theorem Encoding.tax : Encoding.Statement .tax := ⟨rfl, rfl⟩
theorem Encoding.tay : Encoding.Statement .tay := ⟨rfl, rfl⟩
theorem Encoding.txa : Encoding.Statement .txa := ⟨rfl, rfl⟩
theorem Encoding.tya : Encoding.Statement .tya := ⟨rfl, rfl⟩
theorem Encoding.incZp (b : Byte) : Encoding.Statement (.incZp b) := ⟨rfl, rfl⟩
theorem Encoding.incZpX (b : Byte) : Encoding.Statement (.incZpX b) := ⟨rfl, rfl⟩
theorem Encoding.incAbs (addr : Word) : Encoding.Statement (.incAbs addr) := ⟨rfl, rfl⟩
theorem Encoding.decZp (b : Byte) : Encoding.Statement (.decZp b) := ⟨rfl, rfl⟩
theorem Encoding.decZpX (b : Byte) : Encoding.Statement (.decZpX b) := ⟨rfl, rfl⟩
theorem Encoding.decAbs (addr : Word) : Encoding.Statement (.decAbs addr) := ⟨rfl, rfl⟩
theorem Encoding.inx : Encoding.Statement .inx := ⟨rfl, rfl⟩
theorem Encoding.iny : Encoding.Statement .iny := ⟨rfl, rfl⟩
theorem Encoding.dex : Encoding.Statement .dex := ⟨rfl, rfl⟩
theorem Encoding.dey : Encoding.Statement .dey := ⟨rfl, rfl⟩
theorem Encoding.jmp (addr : Word) : Encoding.Statement (.jmp addr) := ⟨rfl, rfl⟩
theorem Encoding.jsr (addr : Word) : Encoding.Statement (.jsr addr) := ⟨rfl, rfl⟩
theorem Encoding.rts : Encoding.Statement .rts := ⟨rfl, rfl⟩
theorem Encoding.bpl (offset : Byte) : Encoding.Statement (.bpl offset) := ⟨rfl, rfl⟩
theorem Encoding.bmi (offset : Byte) : Encoding.Statement (.bmi offset) := ⟨rfl, rfl⟩
theorem Encoding.bcc (offset : Byte) : Encoding.Statement (.bcc offset) := ⟨rfl, rfl⟩
theorem Encoding.bcs (offset : Byte) : Encoding.Statement (.bcs offset) := ⟨rfl, rfl⟩
theorem Encoding.bne (offset : Byte) : Encoding.Statement (.bne offset) := ⟨rfl, rfl⟩
theorem Encoding.beq (offset : Byte) : Encoding.Statement (.beq offset) := ⟨rfl, rfl⟩
theorem Encoding.cmpImm (b : Byte) : Encoding.Statement (.cmpImm b) := ⟨rfl, rfl⟩
theorem Encoding.cmpZp (b : Byte) : Encoding.Statement (.cmpZp b) := ⟨rfl, rfl⟩
theorem Encoding.cmpZpX (b : Byte) : Encoding.Statement (.cmpZpX b) := ⟨rfl, rfl⟩
theorem Encoding.cmpAbs (addr : Word) : Encoding.Statement (.cmpAbs addr) := ⟨rfl, rfl⟩
theorem Encoding.cmpIndX (b : Byte) : Encoding.Statement (.cmpIndX b) := ⟨rfl, rfl⟩
theorem Encoding.cmpIndY (b : Byte) : Encoding.Statement (.cmpIndY b) := ⟨rfl, rfl⟩
theorem Encoding.cpxImm (b : Byte) : Encoding.Statement (.cpxImm b) := ⟨rfl, rfl⟩
theorem Encoding.cpxZp (b : Byte) : Encoding.Statement (.cpxZp b) := ⟨rfl, rfl⟩
theorem Encoding.cpxAbs (addr : Word) : Encoding.Statement (.cpxAbs addr) := ⟨rfl, rfl⟩
theorem Encoding.cpyImm (b : Byte) : Encoding.Statement (.cpyImm b) := ⟨rfl, rfl⟩
theorem Encoding.cpyZp (b : Byte) : Encoding.Statement (.cpyZp b) := ⟨rfl, rfl⟩
theorem Encoding.cpyAbs (addr : Word) : Encoding.Statement (.cpyAbs addr) := ⟨rfl, rfl⟩
theorem Encoding.andImm (b : Byte) : Encoding.Statement (.andImm b) := ⟨rfl, rfl⟩
theorem Encoding.andZp (b : Byte) : Encoding.Statement (.andZp b) := ⟨rfl, rfl⟩
theorem Encoding.andZpX (b : Byte) : Encoding.Statement (.andZpX b) := ⟨rfl, rfl⟩
theorem Encoding.andAbs (addr : Word) : Encoding.Statement (.andAbs addr) := ⟨rfl, rfl⟩
theorem Encoding.andIndX (b : Byte) : Encoding.Statement (.andIndX b) := ⟨rfl, rfl⟩
theorem Encoding.andIndY (b : Byte) : Encoding.Statement (.andIndY b) := ⟨rfl, rfl⟩
theorem Encoding.bitZp (b : Byte) : Encoding.Statement (.bitZp b) := ⟨rfl, rfl⟩
theorem Encoding.bitAbs (addr : Word) : Encoding.Statement (.bitAbs addr) := ⟨rfl, rfl⟩
theorem Encoding.lsrA : Encoding.Statement .lsrA := ⟨rfl, rfl⟩
theorem Encoding.lsrZp (b : Byte) : Encoding.Statement (.lsrZp b) := ⟨rfl, rfl⟩
theorem Encoding.lsrZpX (b : Byte) : Encoding.Statement (.lsrZpX b) := ⟨rfl, rfl⟩
theorem Encoding.lsrAbs (addr : Word) : Encoding.Statement (.lsrAbs addr) := ⟨rfl, rfl⟩
theorem Encoding.adcImm (b : Byte) : Encoding.Statement (.adcImm b) := ⟨rfl, rfl⟩
theorem Encoding.adcZp (b : Byte) : Encoding.Statement (.adcZp b) := ⟨rfl, rfl⟩
theorem Encoding.adcZpX (b : Byte) : Encoding.Statement (.adcZpX b) := ⟨rfl, rfl⟩
theorem Encoding.adcAbs (addr : Word) : Encoding.Statement (.adcAbs addr) := ⟨rfl, rfl⟩
theorem Encoding.adcIndX (b : Byte) : Encoding.Statement (.adcIndX b) := ⟨rfl, rfl⟩
theorem Encoding.adcIndY (b : Byte) : Encoding.Statement (.adcIndY b) := ⟨rfl, rfl⟩
theorem Encoding.sbcImm (b : Byte) : Encoding.Statement (.sbcImm b) := ⟨rfl, rfl⟩
theorem Encoding.sbcZp (b : Byte) : Encoding.Statement (.sbcZp b) := ⟨rfl, rfl⟩
theorem Encoding.sbcZpX (b : Byte) : Encoding.Statement (.sbcZpX b) := ⟨rfl, rfl⟩
theorem Encoding.sbcAbs (addr : Word) : Encoding.Statement (.sbcAbs addr) := ⟨rfl, rfl⟩
theorem Encoding.sbcIndX (b : Byte) : Encoding.Statement (.sbcIndX b) := ⟨rfl, rfl⟩
theorem Encoding.sbcIndY (b : Byte) : Encoding.Statement (.sbcIndY b) := ⟨rfl, rfl⟩
theorem Encoding.clc : Encoding.Statement .clc := ⟨rfl, rfl⟩
theorem Encoding.sec : Encoding.Statement .sec := ⟨rfl, rfl⟩
theorem Encoding.nop : Encoding.Statement .nop := ⟨rfl, rfl⟩
theorem Encoding.brk : Encoding.Statement .brk := ⟨rfl, rfl⟩

end Sys2Proof.Laws
end

