-- ==== Sys2Proof/Tests/Slice0.lean ====
section
/-! SUPPORT. The model's own tests: expected results are the spec's, from 30_encoding.md and the vectors V1 to V75 and
worked examples W1 to W6 of 95_test_vectors.md. Each step test runs ONE step. -/

namespace Sys2Proof.Tests

open Sys2Proof.Machine

/-! ## WellFormed: what each check turns away -/

/-- R93, R91, R106, R126: no immediate store, no indexed LDX, no indirect JMP, no BRK with an operand. -/
theorem test_illformed_pairs :
    Descriptor.wellFormed ⟨.sta, .immediate⟩ = false ∧ Descriptor.wellFormed ⟨.ldx, .zeroPageX⟩ = false ∧
    Descriptor.wellFormed ⟨.jmp, .relative⟩ = false ∧ Descriptor.wellFormed ⟨.brk, .immediate⟩ = false ∧
    Descriptor.wellFormed ⟨.bit, .immediate⟩ = false ∧ Descriptor.wellFormed ⟨.stx, .zeroPageX⟩ = false := by
  decide

/-- R40: one byte too many is refused, and 0xFA00 bytes are not. -/
theorem test_illformed_program :
    programWellFormed (List.replicate 0xFA01 0x00#8) = false ∧
    programWellFormed (List.replicate 0xFA00 0x00#8) = true := by
  unfold programWellFormed
  rw [List.length_replicate, List.length_replicate]
  decide

/-- The operand lists of R90 to R127 and the table of R66 give the same 86 pairs. -/
theorem test_operand_lists_agree_with_the_table :
    (descriptorTable.all fun r => r.descriptor.wellFormed) = true ∧ descriptorTable.length = 86 := by
  decide

/-! ## Decoding: a word written out bit by bit for every constructor (R66; the first byte lowest) -/

theorem test_decode_lda :
    decodeTableWord 16 0b01100010_10101001 = some (.ldaImm 0x62#8) ∧
    decodeTableWord 16 0b00110110_10100101 = some (.ldaZp 0x36#8) ∧
    decodeTableWord 16 0b01110101_10110101 = some (.ldaZpX 0x75#8) ∧
    decodeTableWord 24 0b10110110_10100011_10101101 = some (.ldaAbs 0xB6A3#16) ∧
    decodeTableWord 16 0b00011100_10100001 = some (.ldaIndX 0x1C#8) ∧
    decodeTableWord 16 0b00100010_10110001 = some (.ldaIndY 0x22#8) := by
  decide

theorem test_decode_ldx :
    decodeTableWord 16 0b11100010_10100010 = some (.ldxImm 0xE2#8) ∧
    decodeTableWord 16 0b10011001_10100110 = some (.ldxZp 0x99#8) ∧
    decodeTableWord 24 0b00101000_00011000_10101110 = some (.ldxAbs 0x2818#16) := by
  decide

theorem test_decode_ldy :
    decodeTableWord 16 0b01101101_10100000 = some (.ldyImm 0x6D#8) ∧
    decodeTableWord 16 0b10100101_10100100 = some (.ldyZp 0xA5#8) ∧
    decodeTableWord 16 0b00011110_10110100 = some (.ldyZpX 0x1E#8) ∧
    decodeTableWord 24 0b11111000_11100010_10101100 = some (.ldyAbs 0xF8E2#16) := by
  decide

theorem test_decode_sta :
    decodeTableWord 16 0b10010001_10000101 = some (.staZp 0x91#8) ∧
    decodeTableWord 16 0b01000110_10010101 = some (.staZpX 0x46#8) ∧
    decodeTableWord 24 0b00011001_10011001_10001101 = some (.staAbs 0x1999#16) ∧
    decodeTableWord 16 0b00100110_10000001 = some (.staIndX 0x26#8) ∧
    decodeTableWord 16 0b01111111_10010001 = some (.staIndY 0x7F#8) := by
  decide

theorem test_decode_stx :
    decodeTableWord 16 0b01111011_10000110 = some (.stxZp 0x7B#8) ∧
    decodeTableWord 24 0b00100001_11100010_10001110 = some (.stxAbs 0x21E2#16) := by
  decide

theorem test_decode_sty :
    decodeTableWord 16 0b01001101_10000100 = some (.styZp 0x4D#8) ∧
    decodeTableWord 16 0b00100111_10010100 = some (.styZpX 0x27#8) ∧
    decodeTableWord 24 0b10011101_00010001_10001100 = some (.styAbs 0x9D11#16) := by
  decide

theorem test_decode_tax :
    decodeTableWord 8 0b10101010 = some (.tax) := by
  decide

theorem test_decode_tay :
    decodeTableWord 8 0b10101000 = some (.tay) := by
  decide

theorem test_decode_txa :
    decodeTableWord 8 0b10001010 = some (.txa) := by
  decide

theorem test_decode_tya :
    decodeTableWord 8 0b10011000 = some (.tya) := by
  decide

theorem test_decode_inc :
    decodeTableWord 16 0b01111100_11100110 = some (.incZp 0x7C#8) ∧
    decodeTableWord 16 0b00011111_11110110 = some (.incZpX 0x1F#8) ∧
    decodeTableWord 24 0b11100011_10101100_11101110 = some (.incAbs 0xE3AC#16) := by
  decide

theorem test_decode_dec :
    decodeTableWord 16 0b10100000_11000110 = some (.decZp 0xA0#8) ∧
    decodeTableWord 16 0b00101111_11010110 = some (.decZpX 0x2F#8) ∧
    decodeTableWord 24 0b01001001_00100110_11001110 = some (.decAbs 0x4926#16) := by
  decide

theorem test_decode_inx :
    decodeTableWord 8 0b11101000 = some (.inx) := by
  decide

theorem test_decode_iny :
    decodeTableWord 8 0b11001000 = some (.iny) := by
  decide

theorem test_decode_dex :
    decodeTableWord 8 0b11001010 = some (.dex) := by
  decide

theorem test_decode_dey :
    decodeTableWord 8 0b10001000 = some (.dey) := by
  decide

theorem test_decode_jmp :
    decodeTableWord 24 0b10110001_01110000_01001100 = some (.jmp 0xB170#16) := by
  decide

theorem test_decode_jsr :
    decodeTableWord 24 0b10110000_10011111_00100000 = some (.jsr 0xB09F#16) := by
  decide

theorem test_decode_rts :
    decodeTableWord 8 0b01100000 = some (.rts) := by
  decide

theorem test_decode_bpl :
    decodeTableWord 16 0b10100101_00010000 = some (.bpl 0xA5#8) := by
  decide

theorem test_decode_bmi :
    decodeTableWord 16 0b00011111_00110000 = some (.bmi 0x1F#8) := by
  decide

theorem test_decode_bcc :
    decodeTableWord 16 0b10100011_10010000 = some (.bcc 0xA3#8) := by
  decide

theorem test_decode_bcs :
    decodeTableWord 16 0b10100101_10110000 = some (.bcs 0xA5#8) := by
  decide

theorem test_decode_bne :
    decodeTableWord 16 0b01110101_11010000 = some (.bne 0x75#8) := by
  decide

theorem test_decode_beq :
    decodeTableWord 16 0b00011100_11110000 = some (.beq 0x1C#8) := by
  decide

theorem test_decode_cmp :
    decodeTableWord 16 0b01001000_11001001 = some (.cmpImm 0x48#8) ∧
    decodeTableWord 16 0b00011011_11000101 = some (.cmpZp 0x1B#8) ∧
    decodeTableWord 16 0b10011110_11010101 = some (.cmpZpX 0x9E#8) ∧
    decodeTableWord 24 0b11101011_11000100_11001101 = some (.cmpAbs 0xEBC4#16) ∧
    decodeTableWord 16 0b00110010_11000001 = some (.cmpIndX 0x32#8) ∧
    decodeTableWord 16 0b01011010_11010001 = some (.cmpIndY 0x5A#8) := by
  decide

theorem test_decode_cpx :
    decodeTableWord 16 0b01111011_11100000 = some (.cpxImm 0x7B#8) ∧
    decodeTableWord 16 0b00110100_11100100 = some (.cpxZp 0x34#8) ∧
    decodeTableWord 24 0b10011010_01101010_11101100 = some (.cpxAbs 0x9A6A#16) := by
  decide

theorem test_decode_cpy :
    decodeTableWord 16 0b00101110_11000000 = some (.cpyImm 0x2E#8) ∧
    decodeTableWord 16 0b10100010_11000100 = some (.cpyZp 0xA2#8) ∧
    decodeTableWord 24 0b01011110_11111000_11001100 = some (.cpyAbs 0x5EF8#16) := by
  decide

theorem test_decode_and :
    decodeTableWord 16 0b10011111_00101001 = some (.andImm 0x9F#8) ∧
    decodeTableWord 16 0b11100000_00100101 = some (.andZp 0xE0#8) ∧
    decodeTableWord 16 0b10111110_00110101 = some (.andZpX 0xBE#8) ∧
    decodeTableWord 24 0b00111110_01000100_00101101 = some (.andAbs 0x3E44#16) ∧
    decodeTableWord 16 0b00101010_00100001 = some (.andIndX 0x2A#8) ∧
    decodeTableWord 16 0b10100100_00110001 = some (.andIndY 0xA4#8) := by
  decide

theorem test_decode_bit :
    decodeTableWord 16 0b10100010_00100100 = some (.bitZp 0xA2#8) ∧
    decodeTableWord 24 0b10110011_10001111_00101100 = some (.bitAbs 0xB38F#16) := by
  decide

theorem test_decode_lsr :
    decodeTableWord 8 0b01001010 = some (.lsrA) ∧
    decodeTableWord 16 0b01000000_01000110 = some (.lsrZp 0x40#8) ∧
    decodeTableWord 16 0b01101111_01010110 = some (.lsrZpX 0x6F#8) ∧
    decodeTableWord 24 0b00101000_11110001_01001110 = some (.lsrAbs 0x28F1#16) := by
  decide

theorem test_decode_adc :
    decodeTableWord 16 0b10011100_01101001 = some (.adcImm 0x9C#8) ∧
    decodeTableWord 16 0b11000110_01100101 = some (.adcZp 0xC6#8) ∧
    decodeTableWord 16 0b00100000_01110101 = some (.adcZpX 0x20#8) ∧
    decodeTableWord 24 0b10100000_01111010_01101101 = some (.adcAbs 0xA07A#16) ∧
    decodeTableWord 16 0b00011111_01100001 = some (.adcIndX 0x1F#8) ∧
    decodeTableWord 16 0b10101110_01110001 = some (.adcIndY 0xAE#8) := by
  decide

theorem test_decode_sbc :
    decodeTableWord 16 0b01000100_11101001 = some (.sbcImm 0x44#8) ∧
    decodeTableWord 16 0b10001111_11100101 = some (.sbcZp 0x8F#8) ∧
    decodeTableWord 16 0b10111110_11110101 = some (.sbcZpX 0xBE#8) ∧
    decodeTableWord 24 0b10011000_00011110_11101101 = some (.sbcAbs 0x981E#16) ∧
    decodeTableWord 16 0b01111101_11100001 = some (.sbcIndX 0x7D#8) ∧
    decodeTableWord 16 0b11010110_11110001 = some (.sbcIndY 0xD6#8) := by
  decide

theorem test_decode_clc :
    decodeTableWord 8 0b00011000 = some (.clc) := by
  decide

theorem test_decode_sec :
    decodeTableWord 8 0b00111000 = some (.sec) := by
  decide

theorem test_decode_nop :
    decodeTableWord 8 0b11101010 = some (.nop) := by
  decide

theorem test_decode_brk :
    decodeTableWord 8 0b00000000 = some (.brk) := by
  decide

/-- R69: the 65 documented 6502 opcodes the core does not decode. -/
theorem test_excluded_opcodes :
    ([
      0x09#8, 0x05#8, 0x15#8, 0x0D#8, 0x1D#8, 0x19#8, 0x01#8, 0x11#8, 0x49#8, 0x45#8, 0x55#8, 0x4D#8, 0x5D#8,
      0x59#8, 0x41#8, 0x51#8, 0x0A#8, 0x06#8, 0x16#8, 0x0E#8, 0x1E#8, 0x2A#8, 0x26#8, 0x36#8, 0x2E#8, 0x3E#8,
      0x6A#8, 0x66#8, 0x76#8, 0x6E#8, 0x7E#8, 0x48#8, 0x68#8, 0x08#8, 0x28#8, 0x40#8, 0xBA#8, 0x9A#8, 0x50#8,
      0x70#8, 0xB8#8, 0x58#8, 0x78#8, 0xD8#8, 0xF8#8, 0xBD#8, 0xBC#8, 0x9D#8, 0xFE#8, 0xDE#8, 0xDD#8, 0x3D#8,
      0x5E#8, 0x7D#8, 0xFD#8, 0xB9#8, 0xBE#8, 0x99#8, 0xD9#8, 0x39#8, 0x79#8, 0xF9#8, 0xB6#8, 0x96#8, 0x6C#8] : List Byte).all
      (fun op => (descriptor op).isNone) = true := by
  decide

/-- R62, R68: too few operand bytes, no bytes, and a byte with no descriptor are rejected by name. -/
theorem test_rejections :
    decode [0x8D#8, 0x00#8] = .error (.truncated 0x8D#8) ∧ decode [] = .error .noBytes ∧
    decode [0xFF#8, 0x00#8] = .error (.noDescriptor 0xFF#8) := by
  decide

/-! ## One step (95_test_vectors.md, part 2) -/

/-- The next state, where there is one. -/
def after (s : State) : Option State :=
  match step s with
  | .next t => some t
  | .fault _ => none
  | .refused _ => none

/-- Cells written to the base store. -/
def withCells (cells : List (Word × Byte)) (s : State) : State := cells.foldl (fun s cell => baseWrite cell.1 cell.2 s) s

/-- One step from `start`, with `cells` in memory and `bytes` at its `pc`, gives exactly that state with `change` made and
`stored` written, and the mark that a STEP has run. -/
abbrev Gives (start : State) (cells : List (Word × Byte)) (bytes : List Byte) (stored : List (Word × Byte))
    (change : State → State) : Prop :=
  after (placeBytes start.pc bytes (withCells cells start)) =
    some (withCells stored (change (placeBytes start.pc bytes (withCells cells start)).markStarted))

/-- V1, V2. -/
theorem test_lda_imm :
    Gives { State.reset with pc := 0x0600#16 } []
      [0xA9#8, 0x00#8] []
      (fun s => { s with z := true, pc := 0x0602#16 }) ∧
    Gives { State.reset with pc := 0x0600#16 } []
      [0xA9#8, 0x80#8] []
      (fun s => { s with a := 0x80#8, n := true, pc := 0x0602#16 }) := by
  decide

/-- V3, for whatever the random source answers. -/
theorem test_lda_random :
    (after (placeBytes 0x0600#16 [0xA5#8, 0xFE#8] State.reset)).map (fun t => (t.a, t.pc, t.randCalls, t.calls)) =
      some (Config.randAnswer 0, 0x0602#16, 1, [.rand (Config.randAnswer 0)]) := by
  have h : truncate8 ((Config.randAnswer 0).toNat : Int) = Config.randAnswer 0 := truncate8_natCast _
  have hstep : (after (placeBytes 0x0600#16 [0xA5#8, 0xFE#8] State.reset)).map (fun t => (t.a, t.pc, t.randCalls, t.calls)) =
      some (truncate8 ((Config.randAnswer 0).toNat : Int), 0x0602#16, 1, [.rand (Config.randAnswer 0)]) := rfl
  rw [hstep, h]

/-- V4, for whatever key was pressed. -/
theorem test_lda_key :
    (after (placeBytes 0x0600#16 [0xA5#8, 0xFF#8] State.reset)).map (fun t => (t.a, t.pc, t.keyCalls, t.calls)) =
      some (Config.keyAnswer 0, 0x0602#16, 1, [.key (Config.keyAnswer 0)]) := by
  have h : truncate8 ((Config.keyAnswer 0).toNat : Int) = Config.keyAnswer 0 := truncate8_natCast _
  have hstep : (after (placeBytes 0x0600#16 [0xA5#8, 0xFF#8] State.reset)).map (fun t => (t.a, t.pc, t.keyCalls, t.calls)) =
      some (truncate8 ((Config.keyAnswer 0).toNat : Int), 0x0602#16, 1, [.key (Config.keyAnswer 0)]) := rfl
  rw [hstep, h]

/-- V5. -/
theorem test_lda_zpx :
    Gives { State.reset with x := 0xF5#8, pc := 0x0600#16 } [(0x0005#16, 0x42#8)]
      [0xB5#8, 0x10#8] []
      (fun s => { s with a := 0x42#8, pc := 0x0602#16 }) := by
  decide

/-- V6. -/
theorem test_lda_abs :
    Gives { State.reset with pc := 0x0600#16 } [(0x1234#16, 0xC0#8)]
      [0xAD#8, 0x34#8, 0x12#8] []
      (fun s => { s with a := 0xC0#8, n := true, pc := 0x0603#16 }) := by
  decide

/-- V7. -/
theorem test_lda_indx :
    Gives { State.reset with x := 0x90#8, pc := 0x0600#16 } [(0x0011#16, 0x03#8), (0x0300#16, 0x99#8)]
      [0xA1#8, 0x80#8] []
      (fun s => { s with a := 0x99#8, n := true, pc := 0x0602#16 }) := by
  decide

/-- V9, V10. -/
theorem test_lda_indy :
    Gives { State.reset with y := 0x01#8, pc := 0x0600#16 } [(0x0020#16, 0xFF#8), (0x0021#16, 0x02#8), (0x0300#16, 0x01#8)]
      [0xB1#8, 0x20#8] []
      (fun s => { s with a := 0x01#8, pc := 0x0602#16 }) ∧
    Gives { State.reset with y := 0x02#8, pc := 0x0600#16 } [(0x0020#16, 0xFF#8), (0x0021#16, 0xFF#8), (0x0001#16, 0x55#8)]
      [0xB1#8, 0x20#8] []
      (fun s => { s with a := 0x55#8, pc := 0x0602#16 }) := by
  decide

/-- V11. -/
theorem test_ldx_imm :
    Gives { State.reset with pc := 0x0600#16 } []
      [0xA2#8, 0xFF#8] []
      (fun s => { s with x := 0xFF#8, n := true, pc := 0x0602#16 }) := by
  decide

/-- V12. -/
theorem test_ldy_zpx :
    Gives { State.reset with x := 0x05#8, pc := 0x0600#16 } [(0x0003#16, 0x09#8)]
      [0xB4#8, 0xFE#8] []
      (fun s => { s with y := 0x09#8, pc := 0x0602#16 }) := by
  decide

/-- V13, V14. -/
theorem test_sta_abs :
    Gives { State.reset with a := 0x1F#8, c := true, n := true, z := true, pc := 0x0600#16 } []
      [0x8D#8, 0x00#8, 0x02#8] [(0x0200#16, 0x1F#8)]
      (fun s => { s with pc := 0x0603#16, calls := [.fbUpdate 0 0 15] }) ∧
    Gives { State.reset with a := 0x23#8, pc := 0x0600#16 } []
      [0x8D#8, 0xFF#8, 0x05#8] [(0x05FF#16, 0x23#8)]
      (fun s => { s with pc := 0x0603#16, calls := [.fbUpdate 31 31 3] }) := by
  decide

/-- V15. -/
theorem test_sta_zp :
    Gives { State.reset with a := 0x09#8, pc := 0x0600#16 } []
      [0x85#8, 0xFE#8] [(0x00FE#16, 0x09#8)]
      (fun s => { s with pc := 0x0602#16 }) := by
  decide

/-- V16. -/
theorem test_sty_zpx :
    Gives { State.reset with y := 0x44#8, x := 0xF1#8, pc := 0x0600#16 } []
      [0x94#8, 0x10#8] [(0x0001#16, 0x44#8)]
      (fun s => { s with pc := 0x0602#16 }) := by
  decide

/-- V17. -/
theorem test_stx_abs :
    Gives { State.reset with x := 0xAB#8, pc := 0x0600#16 } []
      [0x8E#8, 0x00#8, 0x06#8] [(0x0600#16, 0xAB#8)]
      (fun s => { s with pc := 0x0603#16 }) := by
  decide

/-- V18. -/
theorem test_tax :
    Gives { State.reset with pc := 0x0600#16 } []
      [0xAA#8] []
      (fun s => { s with z := true, pc := 0x0601#16 }) := by
  decide

/-- V19. -/
theorem test_txa :
    Gives { State.reset with x := 0x90#8, pc := 0x0600#16 } []
      [0x8A#8] []
      (fun s => { s with a := 0x90#8, n := true, pc := 0x0601#16 }) := by
  decide

/-- V20. -/
theorem test_tay :
    Gives { State.reset with a := 0x7F#8, pc := 0x0600#16 } []
      [0xA8#8] []
      (fun s => { s with y := 0x7F#8, pc := 0x0601#16 }) := by
  decide

/-- V21. -/
theorem test_tya :
    Gives { State.reset with n := true, pc := 0x0600#16 } []
      [0x98#8] []
      (fun s => { s with n := false, z := true, pc := 0x0601#16 }) := by
  decide

/-- V22. -/
theorem test_inc_zp :
    Gives { State.reset with pc := 0x0600#16 } [(0x0010#16, 0xFF#8)]
      [0xE6#8, 0x10#8] [(0x0010#16, 0x00#8)]
      (fun s => { s with z := true, pc := 0x0602#16 }) := by
  decide

/-- V23. -/
theorem test_dec_zp :
    Gives { State.reset with pc := 0x0600#16 } []
      [0xC6#8, 0x10#8] [(0x0010#16, 0xFF#8)]
      (fun s => { s with n := true, pc := 0x0602#16 }) := by
  decide

/-- V24. -/
theorem test_inc_abs :
    Gives { State.reset with pc := 0x0600#16 } [(0x0200#16, 0x0F#8)]
      [0xEE#8, 0x00#8, 0x02#8] [(0x0200#16, 0x10#8)]
      (fun s => { s with pc := 0x0603#16, calls := [.fbUpdate 0 0 0] }) := by
  decide

/-- V25. -/
theorem test_dec_zpx :
    Gives { State.reset with x := 0x20#8, pc := 0x0600#16 } [(0x0010#16, 0x80#8)]
      [0xD6#8, 0xF0#8] [(0x0010#16, 0x7F#8)]
      (fun s => { s with pc := 0x0602#16 }) := by
  decide

/-- V27. -/
theorem test_inx :
    Gives { State.reset with x := 0xFF#8, pc := 0x0600#16 } []
      [0xE8#8] []
      (fun s => { s with x := 0x00#8, z := true, pc := 0x0601#16 }) := by
  decide

/-- V28. -/
theorem test_iny :
    Gives { State.reset with y := 0x7F#8, pc := 0x0600#16 } []
      [0xC8#8] []
      (fun s => { s with y := 0x80#8, n := true, pc := 0x0601#16 }) := by
  decide

/-- V29. -/
theorem test_dex :
    Gives { State.reset with pc := 0x0600#16 } []
      [0xCA#8] []
      (fun s => { s with x := 0xFF#8, n := true, pc := 0x0601#16 }) := by
  decide

/-- V30. -/
theorem test_dey :
    Gives { State.reset with y := 0x01#8, pc := 0x0600#16 } []
      [0x88#8] []
      (fun s => { s with y := 0x00#8, z := true, pc := 0x0601#16 }) := by
  decide

/-- V31. -/
theorem test_jmp :
    Gives { State.reset with pc := 0x0600#16 } []
      [0x4C#8, 0x34#8, 0x12#8] []
      (fun s => { s with pc := 0x1234#16 }) := by
  decide

/-- V32, V33. -/
theorem test_jsr :
    Gives { State.reset with pc := 0x0600#16 } []
      [0x20#8, 0x00#8, 0x07#8] [(0x01FF#16, 0x03#8), (0x01FE#16, 0x06#8)]
      (fun s => { s with sp := 0xFD#8, pc := 0x0700#16 }) ∧
    Gives { State.reset with sp := 0x00#8, pc := 0x0600#16 } []
      [0x20#8, 0x00#8, 0x07#8] [(0x0100#16, 0x03#8), (0x01FF#16, 0x06#8)]
      (fun s => { s with sp := 0xFE#8, pc := 0x0700#16 }) := by
  decide

/-- V34, V35. -/
theorem test_rts :
    Gives { State.reset with sp := 0xFD#8, pc := 0x0600#16 } [(0x01FE#16, 0x12#8), (0x01FF#16, 0x34#8)]
      [0x60#8] []
      (fun s => { s with sp := 0xFF#8, pc := 0x1234#16 }) ∧
    Gives { State.reset with pc := 0x0600#16 } []
      [0x60#8] []
      (fun s => { s with sp := 0x01#8, pc := 0x0000#16 }) := by
  decide

/-- V36, V37. -/
theorem test_bne :
    Gives { State.reset with z := true, pc := 0x0608#16 } []
      [0xD0#8, 0xFA#8] []
      (fun s => { s with pc := 0x060A#16 }) ∧
    Gives { State.reset with pc := 0x0608#16 } []
      [0xD0#8, 0xFA#8] []
      (fun s => { s with pc := 0x0604#16 }) := by
  decide

/-- V38. -/
theorem test_beq :
    Gives { State.reset with z := true, pc := 0x0651#16 } []
      [0xF0#8, 0x0D#8] []
      (fun s => { s with pc := 0x0660#16 }) := by
  decide

/-- V39. -/
theorem test_bpl :
    Gives { State.reset with pc := 0xFFFD#16 } []
      [0x10#8, 0x02#8] []
      (fun s => { s with pc := 0x0001#16 }) := by
  decide

/-- V40. -/
theorem test_bcc :
    Gives { State.reset with pc := 0x0000#16 } []
      [0x90#8, 0x80#8] []
      (fun s => { s with pc := 0xFF82#16 }) := by
  decide

/-- V41. -/
theorem test_bmi :
    Gives { State.reset with pc := 0x0600#16 } []
      [0x30#8, 0x04#8] []
      (fun s => { s with pc := 0x0602#16 }) := by
  decide

/-- V42. -/
theorem test_bcs :
    Gives { State.reset with c := true, pc := 0x0600#16 } []
      [0xB0#8, 0x7F#8] []
      (fun s => { s with pc := 0x0681#16 }) := by
  decide

/-- V43, V44, V45, V46. -/
theorem test_cmp_imm :
    Gives { State.reset with a := 0x77#8, pc := 0x0600#16 } []
      [0xC9#8, 0x77#8] []
      (fun s => { s with c := true, z := true, pc := 0x0602#16 }) ∧
    Gives { State.reset with pc := 0x0600#16 } []
      [0xC9#8, 0x01#8] []
      (fun s => { s with n := true, pc := 0x0602#16 }) ∧
    Gives { State.reset with a := 0x80#8, pc := 0x0600#16 } []
      [0xC9#8, 0x00#8] []
      (fun s => { s with c := true, n := true, pc := 0x0602#16 }) ∧
    Gives { State.reset with a := 0x01#8, pc := 0x0600#16 } []
      [0xC9#8, 0xFF#8] []
      (fun s => { s with pc := 0x0602#16 }) := by
  decide

/-- V47. -/
theorem test_cpx_imm :
    Gives { State.reset with x := 0x04#8, pc := 0x0600#16 } []
      [0xE0#8, 0x05#8] []
      (fun s => { s with n := true, pc := 0x0602#16 }) := by
  decide

/-- V48. -/
theorem test_cpy_zp :
    Gives { State.reset with y := 0x10#8, pc := 0x0600#16 } [(0x0010#16, 0x10#8)]
      [0xC4#8, 0x10#8] []
      (fun s => { s with c := true, z := true, pc := 0x0602#16 }) := by
  decide

/-- V50, V51. -/
theorem test_and_imm :
    Gives { State.reset with a := 0xF0#8, pc := 0x0600#16 } []
      [0x29#8, 0x0F#8] []
      (fun s => { s with a := 0x00#8, z := true, pc := 0x0602#16 }) ∧
    Gives { State.reset with a := 0x80#8, pc := 0x0600#16 } []
      [0x29#8, 0xFF#8] []
      (fun s => { s with n := true, pc := 0x0602#16 }) := by
  decide

/-- V52. -/
theorem test_bit_zp :
    Gives { State.reset with a := 0x04#8, c := true, pc := 0x0600#16 } [(0x0010#16, 0x82#8)]
      [0x24#8, 0x10#8] []
      (fun s => { s with n := true, z := true, pc := 0x0602#16 }) := by
  decide

/-- V53. -/
theorem test_bit_abs :
    Gives { State.reset with a := 0xFF#8, n := true, z := true, pc := 0x0600#16 } [(0x0300#16, 0x7F#8)]
      [0x2C#8, 0x00#8, 0x03#8] []
      (fun s => { s with n := false, z := false, pc := 0x0603#16 }) := by
  decide

/-- V54, V55. -/
theorem test_lsr_a :
    Gives { State.reset with a := 0x01#8, pc := 0x0600#16 } []
      [0x4A#8] []
      (fun s => { s with a := 0x00#8, c := true, z := true, pc := 0x0601#16 }) ∧
    Gives { State.reset with a := 0xFF#8, n := true, pc := 0x0600#16 } []
      [0x4A#8] []
      (fun s => { s with a := 0x7F#8, c := true, n := false, pc := 0x0601#16 }) := by
  decide

/-- V56. -/
theorem test_lsr_abs :
    Gives { State.reset with pc := 0x0600#16 } [(0x0200#16, 0x1F#8)]
      [0x4E#8, 0x00#8, 0x02#8] [(0x0200#16, 0x0F#8)]
      (fun s => { s with c := true, pc := 0x0603#16, calls := [.fbUpdate 0 0 15] }) := by
  decide

/-- V57. -/
theorem test_lsr_zpx :
    Gives { State.reset with x := 0x01#8, pc := 0x0600#16 } [(0x0000#16, 0x02#8)]
      [0x56#8, 0xFF#8] [(0x0000#16, 0x01#8)]
      (fun s => { s with pc := 0x0602#16 }) := by
  decide

/-- V58, V59, V60, V61. -/
theorem test_adc_imm :
    Gives { State.reset with a := 0x01#8, pc := 0x0600#16 } []
      [0x69#8, 0x02#8] []
      (fun s => { s with a := 0x03#8, pc := 0x0602#16 }) ∧
    Gives { State.reset with a := 0xFF#8, pc := 0x0600#16 } []
      [0x69#8, 0x01#8] []
      (fun s => { s with a := 0x00#8, c := true, z := true, pc := 0x0602#16 }) ∧
    Gives { State.reset with a := 0xFF#8, c := true, pc := 0x0600#16 } []
      [0x69#8, 0xFF#8] []
      (fun s => { s with n := true, pc := 0x0602#16 }) ∧
    Gives { State.reset with a := 0x7F#8, pc := 0x0600#16 } []
      [0x69#8, 0x01#8] []
      (fun s => { s with a := 0x80#8, n := true, pc := 0x0602#16 }) := by
  decide

/-- V62, V63, V64, V65, V66. -/
theorem test_sbc_imm :
    Gives { State.reset with c := true, pc := 0x0600#16 } []
      [0xE9#8, 0x01#8] []
      (fun s => { s with a := 0xFF#8, c := false, n := true, pc := 0x0602#16 }) ∧
    Gives { State.reset with a := 0x05#8, c := true, pc := 0x0600#16 } []
      [0xE9#8, 0x05#8] []
      (fun s => { s with a := 0x00#8, z := true, pc := 0x0602#16 }) ∧
    Gives { State.reset with a := 0x05#8, pc := 0x0600#16 } []
      [0xE9#8, 0x04#8] []
      (fun s => { s with a := 0x00#8, c := true, z := true, pc := 0x0602#16 }) ∧
    Gives { State.reset with pc := 0x0600#16 } []
      [0xE9#8, 0xFF#8] []
      (fun s => { s with z := true, pc := 0x0602#16 }) ∧
    Gives { State.reset with a := 0x11#8, c := true, pc := 0x0600#16 } []
      [0xE9#8, 0x20#8] []
      (fun s => { s with a := 0xF1#8, c := false, n := true, pc := 0x0602#16 }) := by
  decide

/-- V67. -/
theorem test_clc :
    Gives { State.reset with c := true, n := true, z := true, pc := 0x0600#16 } []
      [0x18#8] []
      (fun s => { s with c := false, pc := 0x0601#16 }) := by
  decide

/-- V68. -/
theorem test_sec :
    Gives { State.reset with pc := 0x0600#16 } []
      [0x38#8] []
      (fun s => { s with c := true, pc := 0x0601#16 }) := by
  decide

/-- V69. -/
theorem test_brk :
    Gives { State.reset with pc := 0x0600#16 } []
      [0x00#8] []
      (fun s => { s with pc := 0x0601#16, run := .halted .stop }) := by
  decide

/-- V70. -/
theorem test_nop :
    Gives { State.reset with pc := 0x0600#16 } []
      [0xEA#8] []
      (fun s => { s with pc := 0x0601#16 }) := by
  decide

/-- V71, V72. -/
theorem test_undecoded :
    Gives { State.reset with pc := 0x0600#16 } []
      [0xFF#8] []
      (fun s => { s with pc := 0x0601#16, run := .halted (.decodeError 0xFF#8 0x0600#16) }) ∧
    Gives { State.reset with pc := 0x0600#16 } []
      [0x48#8] []
      (fun s => { s with pc := 0x0601#16, run := .halted (.decodeError 0x48#8 0x0600#16) }) := by
  decide

/-- V73. -/
theorem test_inx_wraps_pc :
    Gives { State.reset with pc := 0xFFFF#16 } []
      [0xE8#8] []
      (fun s => { s with x := 0x01#8, pc := 0x0000#16 }) := by
  decide

/-- V8: the pointer at 0xFF takes its low byte from KEY() and its high byte from 0x0000. -/
theorem test_pointer_at_ff :
    readPointer 0xFF#8 (withCells [(0x0000#16, 0x12#8)] State.reset) =
      (toWord (Config.keyAnswer 0) 0x12#8, (withCells [(0x0000#16, 0x12#8)] State.reset).callKey) := by
  rfl

/-- V26: INC of 0xFE reads a draw and stores it one higher. -/
theorem test_inc_random :
    (after (placeBytes 0x0600#16 [0xE6#8, 0xFE#8] State.reset)).map (baseRead 0x00FE#16) =
      some (baseRead 0x00FE#16 (baseWrite 0x00FE#16 (truncate8 ((Config.randAnswer 0).toNat + 1))
        (placeBytes 0x0600#16 [0xE6#8, 0xFE#8] State.reset))) := by
  rfl

/-- V49: a comparison with a draw. -/
theorem test_cmp_random :
    (after (placeBytes 0x0600#16 [0xC5#8, 0xFE#8] { State.reset with a := 0x05#8 })).map (fun t => t.c) =
      some (decide ((Config.randAnswer 0).toNat ≤ 5)) := by
  rfl

/-- V74: STEP in Halted does nothing. -/
theorem test_halted :
    after { State.reset with run := .halted .stop, pc := 0x0601#16 } =
      some { State.reset with run := .halted .stop, pc := 0x0601#16 } := by
  decide

/-- V75: an opcode fetched from 0xFE is a draw; when the draw is E8 it is INX. -/
theorem test_fetch_from_random (h : Config.randAnswer 0 = 0xE8#8) :
    after { State.reset with pc := 0x00FE#16 } =
      some { State.reset with
        x := 0x01#8, pc := 0x00FF#16, started := true, randCalls := 1, calls := [.rand 0xE8#8] } := by
  have op : (fetchNext (State.markStarted { State.reset with pc := 0x00FE#16 })).1 = 0xE8#8 := h
  have row : descriptor 0xE8#8 = some ⟨.inx, .implicit⟩ := by decide
  have ok : decode [0xE8#8] = .ok (.inx, []) := by decide
  simp only [after, step, State.reset, fetchInstr] at op ⊢
  simp only [op, row, Mode.operandCount, fetchBytes, ok]
  simp only [exec, execInx, incrementRegister, fetchNext, memRead, State.markStarted, if_true, State.callRand, h]
  rfl

/-! ## Worked examples of the source (95_test_vectors.md, part 1) -/

/-- W2: 10, 20, 30 pushed from reset, and pulled. -/
theorem test_stack_discipline :
    (pullAll 3 (pushAll [10#8, 20#8, 30#8] State.reset)).1 = [30#8, 20#8, 10#8] ∧
    (pushAll [10#8, 20#8, 30#8] State.reset).sp = 0xFC#8 := by
  decide

/-- W3: the return addresses of two nested calls. -/
theorem test_linkage :
    (callSubroutine 0x060D#16 (callSubroutine 0x0606#16 State.reset)).sp = 0xFB#8 ∧
    (returnFromSubroutine (callSubroutine 0x060D#16 (callSubroutine 0x0606#16 State.reset))).pc = 0x0606#16 := by
  decide

/-- W4: the flags of NZ. -/
theorem test_normalize :
    nz 0x1337 State.reset = (0x37#8, State.reset) ∧ nz 0x100 State.reset = (0x00#8, { State.reset with z := true }) ∧
    nz (-1) State.reset = (0xFF#8, { State.reset with n := true }) := by
  decide

/-- R74: the examples of sext_8. -/
theorem test_sext8 :
    sext8 0x0D#8 = 13 ∧ sext8 0x7F#8 = 127 ∧ sext8 0x80#8 = -128 ∧ sext8 0xFA#8 = -6 ∧ sext8 0xFF#8 = -1 := by
  decide

/-- W6: the pointer of (zp,X). -/
theorem test_indexed_indirect :
    (resolve (.indexedIndirect 0x10#8) (withCells [(0x0011#16, 0x03#8)] State.reset)).1 = some 0x0300#16 := by
  decide

/-! ## Placing an instruction for the next step -/

/-- LDA #$02 as the table numbers its bits, run as the first instruction after reset. -/
theorem test_fetch_word :
    (after (State.reset.withFetchWord 16 0x02A9)).map (fun t => (t.a, t.pc)) = some (0x02#8, 0x0602#16) ∧
    decodeTableWord 16 0x02A9 = some (.ldaImm 0x02#8) := by
  decide

/-- From reset with nothing loaded the first step is BRK (R40). -/
theorem test_reset_halts : (after State.reset).map (fun t => t.run) = some (.halted .stop) := by
  decide

/-! ## Witnesses: every statement with hypotheses has a state and operands that meet them -/

theorem test_witness_EveryStepKeepsTheInvariant : State.reset.Inv ∧ ∃ t, step State.reset = .next t :=
  ⟨⟨by decide, by decide⟩, _, rfl⟩

theorem test_witness_EncodingInvertsDecoding :
    decode [0x8D#8, 0xFF#8, 0xFF#8, 0x00#8] = .ok (.staAbs 0xFFFF#16, [0x00#8]) := by
  decide

/-- Running, with an undecoded byte at `pc`: for the second clauses of InstructionLengthIsFixedByTheMode and
OneHundredSeventyBytesAreUndecoded, for UndecodedOpcodeHaltsTheCore, and for the third case of OnlyBrkAndDecodeErrorsHalt. -/
theorem test_witness_UndecodedOpcodeHaltsTheCore :
    (baseWrite 0x0600#16 0x48#8 State.reset).run = .running ∧
    descriptor (fetchNext (baseWrite 0x0600#16 0x48#8 State.reset).markStarted).1 = none ∧ descriptor 0xFF#8 = none := by
  decide

theorem test_witness_StepRunsTheDecodedInstruction :
    (placeBytes 0x0600#16 [0x8D#8, 0x00#8, 0x02#8] State.reset).run = .running ∧
    decode (bytesAt 0x0600#16 3 (placeBytes 0x0600#16 [0x8D#8, 0x00#8, 0x02#8] State.reset)) = .ok (.staAbs 0x0200#16, []) ∧
    Instr.wellFormed (.staAbs 0x0200#16) = true ∧
    ∀ k, k < Instr.length (.staAbs 0x0200#16) → plainAddress (0x0600#16 + BitVec.ofNat 16 k) := by
  refine ⟨by decide, by decide, by decide, ?_⟩
  unfold plainAddress
  decide

/-- At the last plain `pc` before the intercepted addresses, one byte of instruction. -/
theorem test_witness_StepRunsTheDecodedInstruction_edge :
    decode (bytesAt 0x00FD#16 3 (baseWrite 0x00FD#16 0xE8#8 State.reset)) = .ok (.inx, [0x00#8, 0x00#8]) ∧
    plainAddress 0x00FD#16 := by
  unfold plainAddress
  decide

theorem test_witness_StepFetchesEveryByteThroughTheDecorator :
    State.reset.run = .running ∧ descriptor (fetchNext State.reset.markStarted).1 = some ⟨.brk, .implicit⟩ := by
  decide

theorem test_witness_HaltedIsAbsorbing :
    (State.putRun (.halted (.decodeError 0x48#8 0x0603#16)) State.reset).run = .halted (.decodeError 0x48#8 0x0603#16) := by
  decide

/-- The three cases: an instruction that goes on, BRK, and an undecoded byte. -/
theorem test_witness_OnlyBrkAndDecodeErrorsHalt :
    State.reset.run = .running ∧
    (after (baseWrite 0x0600#16 0xEA#8 State.reset)).map (fun t => t.run) = some .running ∧
    (after State.reset).map (fun t => t.run) = some (.halted .stop) ∧
    (after (baseWrite 0x0600#16 0x48#8 State.reset)).map (fun t => t.run) =
      some (.halted (.decodeError 0x48#8 0x0600#16)) := by
  decide

/-- Every case of ProgramCounterAfterAnInstruction: JMP, JSR, RTS, a branch taken and not taken, another instruction. -/
theorem test_witness_ProgramCounterAfterAnInstruction :
    (∃ t, exec (.jmp 0xFFFF#16) State.reset = .next t) ∧ (∃ t, exec (.jsr 0x0000#16) State.reset = .next t) ∧
    (∃ t, exec .rts State.reset = .next t) ∧ (∃ t, exec (.bne 0x80#8) State.reset = .next t) ∧
    (∃ t, exec (.beq 0x7F#8) State.reset = .next t) ∧ ∃ t, exec .nop State.reset = .next t :=
  ⟨⟨_, rfl⟩, ⟨_, rfl⟩, ⟨_, rfl⟩, ⟨_, rfl⟩, ⟨_, rfl⟩, ⟨_, rfl⟩⟩

/-- Rows of R22's table on both sides of every clause of RegistersAndFlagsKeptByTheTable and FlagsNotReadDoNotMatter. -/
theorem test_witness_RegistersAndFlagsKeptByTheTable :
    (∃ t, exec (.staZp 0x00#8) State.reset = .next t) ∧
    Instr.access (.staZp 0x00#8) = {} ∧ (Instr.access .tax).writesX = true ∧ (Instr.access .tay).writesY = true ∧
    (Instr.access .lsrA).writesA = true ∧ (Instr.access (.lsrZp 0x00#8)).writesA = false ∧
    (Instr.access (.adcImm 0x00#8)).readsC = true ∧ (Instr.access (.bpl 0x00#8)).readsN = true ∧
    (Instr.access (.beq 0x00#8)).readsZ = true := by
  refine ⟨⟨_, rfl⟩, ?_⟩
  decide

/-- JSR, RTS, BRK and an instruction of no such kind, with `sp` where it wraps. -/
theorem test_witness_StackPointerAndRunStateFrame :
    (∃ t, exec (.jsr 0x0600#16) { State.reset with sp := 0x01#8 } = .next t ∧ t.sp = 0xFF#8) ∧
    (∃ t, exec .rts State.reset = .next t ∧ t.sp = 0x01#8) ∧ (∃ t, exec .brk State.reset = .next t ∧ t.run = .halted .stop) ∧
    ∃ t, exec .nop State.reset = .next t ∧ t.sp = 0xFF#8 :=
  ⟨⟨_, rfl, by decide⟩, ⟨_, rfl, by decide⟩, ⟨_, rfl, by decide⟩, ⟨_, rfl, by decide⟩⟩

/-- An address an instruction stores to, and its two neighbours, which it does not. -/
theorem test_witness_MemoryKeptOutsideTheStoredBytes :
    (∃ t, exec (.staAbs 0x0200#16) State.reset = .next t) ∧
    storedAddresses (.staAbs 0x0200#16) State.reset = [0x0200#16] ∧
    0x01FF#16 ∉ storedAddresses (.staAbs 0x0200#16) State.reset ∧
    storedAddresses (.jsr 0x0000#16) { State.reset with sp := 0x00#8 } = [0x0100#16, 0x01FF#16] ∧
    storedAddresses .lsrA State.reset = [] ∧ storedAddresses (.lsrZp 0xFF#8) State.reset = [0x00FF#16] := by
  refine ⟨⟨_, rfl⟩, ?_⟩
  decide

/-- Addresses beside the intercepted ones, for InterceptedReadsAreCollaboratorCalls and
WrittenByteReadsBackExceptAtIntercepts. -/
theorem test_witness_InterceptedReadsAreCollaboratorCalls :
    plainAddress 0x00FD#16 ∧ plainAddress 0x0100#16 ∧ plainAddress 0x01FE#16 ∧
    memRead 0x00FD#16 State.reset = (0x00#8, State.reset) := by
  unfold plainAddress
  decide

/-- The framebuffer's edges (R46): the first and last pixel report, their outer neighbours do not. -/
theorem test_witness_DecoratedWritesReachTheStoreAndReportPixels :
    (memWrite 0x0200#16 0x1F#8 State.reset).calls = [.fbUpdate 0 0 15] ∧
    (memWrite 0x05FF#16 0x10#8 State.reset).calls = [.fbUpdate 31 31 0] ∧
    (memWrite 0x01FF#16 0x01#8 State.reset).calls = [] ∧ (memWrite 0x0600#16 0x01#8 State.reset).calls = [] := by
  decide

/-- For PixelCallsStayInRange and StepRecordsEveryDraw: a step that reports a pixel and a step that draws. -/
theorem test_witness_PixelCallsStayInRange :
    ((after (placeBytes 0x0600#16 [0x8D#8, 0x21#8, 0x03#8] State.reset)).map fun t => t.calls) = some [.fbUpdate 1 9 0] ∧
    ((after (placeBytes 0x0600#16 [0xA5#8, 0xFE#8] State.reset)).map fun t => t.randCalls) = some 1 := by
  decide

theorem test_witness_StackIsLastInFirstOut :
    (List.replicate 256 0x07#8).length ≤ 256 ∧ (0x07#8 :: List.replicate 255 0x08#8).length = 256 := by
  rw [List.length_cons, List.length_replicate, List.length_replicate]
  decide

theorem test_witness_ReturnInvertsCall :
    ∃ t u : State, exec (.jsr 0x1234#16) State.reset = .next t ∧ u.mem = t.mem ∧ u.sp = t.sp ∧ u.a = 0x99#8 :=
  ⟨_, { callSubroutine 0x1234#16 State.reset with a := 0x99#8 }, rfl, rfl, rfl, rfl⟩

/-- A form of every mnemonic that a result statement names by its mnemonic. -/
theorem test_witness_result_statements :
    Instr.mnemonic (.ldaImm 0xFF#8) = .lda ∧ Instr.mnemonic (.ldxAbs 0x00FE#16) = .ldx ∧
    Instr.mnemonic (.ldyZpX 0x00#8) = .ldy ∧ Instr.mnemonic (.staIndY 0xFF#8) = .sta ∧
    Instr.mnemonic (.stxZp 0x00#8) = .stx ∧ Instr.mnemonic (.styAbs 0x05FF#16) = .sty ∧
    Instr.mnemonic (.incZp 0xFE#8) = .inc ∧ Instr.mnemonic (.decAbs 0x0200#16) = .dec ∧
    Instr.mnemonic (.cmpIndX 0xFF#8) = .cmp ∧ Instr.mnemonic (.cpxImm 0x00#8) = .cpx ∧
    Instr.mnemonic (.cpyZp 0xFF#8) = .cpy ∧ Instr.mnemonic (.andZpX 0xFF#8) = .and ∧
    Instr.mnemonic (.bitAbs 0xFFFF#16) = .bit ∧ Instr.mnemonic (.lsrZpX 0xFF#8) = .lsr ∧
    (Instr.operand (.lsrZpX 0xFF#8)).mode ≠ .implicit ∧ Instr.mnemonic (.adcIndY 0x00#8) = .adc ∧
    Instr.mnemonic (.sbcAbs 0x0000#16) = .sbc := by
  decide

/-- A plain `pc` with NOP there, and one with BRK there. -/
theorem test_witness_NopChangesNothing_BrkHaltsNormally :
    State.reset.run = .running ∧ plainAddress State.reset.pc ∧ baseRead State.reset.pc State.reset = 0x00#8 ∧
    baseRead 0x0600#16 (baseWrite 0x0600#16 0xEA#8 State.reset) = 0xEA#8 := by
  unfold plainAddress
  decide

/-- Programs of no byte and of the most bytes (ResetLeavesTheStateOfTheSpec too), before the first STEP; and, for the refusals, after it and one too long. -/
theorem test_witness_LoadPlacesTheProgram_LoadIsRefused :
    State.reset.started = false ∧ ([] : List Byte).length ≤ 0xFA00 ∧ (List.replicate 0xFA00 0xFF#8).length ≤ 0xFA00 ∧
    State.reset.markStarted.started = true ∧ 0xFA00 < (List.replicate 0xFA01 0xFF#8).length := by
  rw [List.length_replicate, List.length_replicate]
  decide

/-- Both conditions at once: a STEP has run, and there is one byte too many. The model answers "too late" (log 13). -/
theorem test_witness_LoadIsRefusedTooLateBeforeTooLong :
    State.reset.markStarted.started = true ∧ 0xFA00 < (List.replicate 0xFA01 0xFF#8).length ∧
    loadProgram (List.replicate 0xFA01 0xFF#8) State.reset.markStarted = .refused .loadAfterFirstStep := by
  refine ⟨rfl, ?_, rfl⟩
  rw [List.length_replicate]
  decide

end Sys2Proof.Tests
end

section
/-! SUPPORT. The family 00_scope.md: what a step adds to the record of collaborator calls (PixelCallsStayInRange,
StepRecordsEveryDraw), and what LOAD leaves in the base store (LoadPlacesTheProgram). -/

namespace Sys2Proof.Machine

/-! ## What new calls say of one input collaborator -/

/-- Among the calls `new`, latest first, those that `isDraw` picks take the counter from `first` to `next`, and in the
order they were made their answers are the free values from `first` on. -/
def AnswersInOrder (isDraw : Call → Bool) (answerOf : Call → Option Byte) (free : Nat → Byte) (first next : Nat)
    (new : List Call) : Prop :=
  next = first + new.countP isDraw ∧
    new.reverse.filterMap answerOf = (List.range' first (new.countP isDraw)).map free

variable {isDraw : Call → Bool} {answerOf : Call → Option Byte} {free : Nat → Byte}

theorem answersInOrder_nil (first : Nat) : AnswersInOrder isDraw answerOf free first first [] :=
  ⟨rfl, rfl⟩

theorem answersInOrder_draw (first : Nat) (call : Call) (hd : isDraw call = true)
    (ha : answerOf call = some (free first)) : AnswersInOrder isDraw answerOf free first (first + 1) [call] := by
  constructor <;> simp [hd, ha]

theorem answersInOrder_other (first : Nat) (call : Call) (hd : isDraw call = false) (ha : answerOf call = none) :
    AnswersInOrder isDraw answerOf free first first [call] := by
  constructor <;> simp [hd, ha]

/-- Later calls go before the earlier ones, and their draws go on where the earlier ones stopped. -/
theorem AnswersInOrder.append {first middle last : Nat} {earlier later : List Call}
    (h1 : AnswersInOrder isDraw answerOf free first middle earlier)
    (h2 : AnswersInOrder isDraw answerOf free middle last later) :
    AnswersInOrder isDraw answerOf free first last (later ++ earlier) := by
  obtain ⟨rfl, a1⟩ := h1
  obtain ⟨rfl, a2⟩ := h2
  constructor
  · rw [List.countP_append]
    omega
  · rw [List.reverse_append, List.filterMap_append, a1, a2, ← List.map_append, List.range'_append_1,
      List.countP_append, Nat.add_comm]

/-! ## States that differ by recorded calls -/

/-- From `s` to `t` the calls `new` were made, latest first: every pixel among them is in range (R7, R46), and the draws
of each input collaborator are answered in order (R43, R44, R59). -/
structure Records (new : List Call) (s t : State) : Prop where
  calls : t.calls = new ++ s.calls
  inRange : ∀ call ∈ new, call.inRange
  rand : AnswersInOrder Call.isRand Call.randAnswer Config.randAnswer s.randCalls t.randCalls new
  key : AnswersInOrder Call.isKey Call.keyAnswer Config.keyAnswer s.keyCalls t.keyCalls new

/-- Some calls were made from `s` to `t`, and the record of `t` holds them as `Records` says. -/
def RecordGrows (s t : State) : Prop := ∃ new, Records new s t

/-- The two states hold the same record of collaborator calls. -/
def SameRecord (s t : State) : Prop :=
  t.calls = s.calls ∧ t.randCalls = s.randCalls ∧ t.keyCalls = s.keyCalls

theorem RecordGrows.trans {s t u : State} (h1 : RecordGrows s t) (h2 : RecordGrows t u) : RecordGrows s u := by
  obtain ⟨earlier, e⟩ := h1
  obtain ⟨later, l⟩ := h2
  refine ⟨later ++ earlier, ?_, ?_, e.rand.append l.rand, e.key.append l.key⟩
  · rw [l.calls, e.calls, List.append_assoc]
  · exact List.forall_mem_append.mpr ⟨l.inRange, e.inRange⟩

theorem SameRecord.grows {s t : State} (h : SameRecord s t) : RecordGrows s t := by
  obtain ⟨hc, hr, hk⟩ := h
  exact ⟨[], hc, by simp, hr ▸ answersInOrder_nil _, hk ▸ answersInOrder_nil _⟩

theorem RecordGrows.refl (s : State) : RecordGrows s s := SameRecord.grows ⟨rfl, rfl, rfl⟩

theorem callRand_grows (s : State) : RecordGrows s s.callRand :=
  ⟨[.rand (Config.randAnswer s.randCalls)], rfl, by simp [Call.inRange], answersInOrder_draw _ _ rfl rfl,
    answersInOrder_other _ _ rfl rfl⟩

theorem callKey_grows (s : State) : RecordGrows s s.callKey :=
  ⟨[.key (Config.keyAnswer s.keyCalls)], rfl, by simp [Call.inRange], answersInOrder_other _ _ rfl rfl,
    answersInOrder_draw _ _ rfl rfl⟩

theorem callFbUpdate_grows (x y colour : Nat) (s : State) (h : (Call.fbUpdate x y colour).inRange) :
    RecordGrows s (s.callFbUpdate x y colour) :=
  ⟨[.fbUpdate x y colour], rfl, by simpa using h, answersInOrder_other _ _ rfl rfl, answersInOrder_other _ _ rfl rfl⟩

/-! ## The memory accesses -/

/-- The pixel of a framebuffer address lies in the 32 by 32 grid, and its colour is one of 16 (R46). -/
theorem pixel_inRange (a : Word) (v : Byte) (h : inFramebuffer a = true) :
    (Call.fbUpdate (pixelColumn a) (pixelRow a) (pixelColour v)).inRange := by
  rw [inFramebuffer_eq, decide_eq_true_eq] at h
  have row : (a.toNat - 0x200) / 32 < 32 := by omega
  exact ⟨Nat.mod_lt _ (by decide), row, Nat.mod_lt _ (by decide)⟩

theorem memRead_grows (a : Word) (s : State) : RecordGrows s (memRead a s).2 := by
  by_cases hr : a = randAddress
  · rw [hr, memRead_rand]
    exact callRand_grows s
  · by_cases hk : a = keyAddress
    · rw [hk, memRead_key]
      exact callKey_grows s
    · rw [memRead_plain a s hr hk]
      exact .refl s

theorem memWrite_grows (a : Word) (v : Byte) (s : State) : RecordGrows s (memWrite a v s) := by
  have written : RecordGrows s (baseWrite a v s) := SameRecord.grows ⟨rfl, rfl, rfl⟩
  unfold memWrite
  split
  · next h => exact written.trans (callFbUpdate_grows _ _ _ _ (pixel_inRange a v h))
  · exact written

theorem fetchNext_grows (s : State) : RecordGrows s (fetchNext s).2 :=
  (memRead_grows s.pc s).trans (SameRecord.grows ⟨rfl, rfl, rfl⟩)

theorem fetchBytes_grows (k : Nat) (s : State) : RecordGrows s (fetchBytes k s).2 := by
  induction k generalizing s with
  | zero => exact .refl s
  | succ k ih => exact (fetchNext_grows s).trans (ih _)

theorem readPointer_grows (p : Byte) (s : State) : RecordGrows s (readPointer p s).2 :=
  (memRead_grows _ s).trans (memRead_grows _ _)

theorem resolve_grows (o : Operand) (s : State) : RecordGrows s (resolve o s).2 := by
  cases o with
  | indexedIndirect b => exact readPointer_grows (b + s.x) s
  | indirectIndexed b => exact readPointer_grows b s
  | implicit | relative | immediate | zeroPage | zeroPageX | absolute => exact .refl s

/-! ## The meanings -/

/-- A body that reads its operand and then only writes registers and flags. -/
theorem grows_of_read (ea : Word) {s t : State} (h : SameRecord (memRead ea s).2 t) : RecordGrows s t :=
  (memRead_grows ea s).trans h.grows

/-- A body that reads its operand, writes flags, and stores a result: a read-modify-write form (R57). -/
theorem grows_of_read_write (ea : Word) {v : Byte} {s u : State} (h : SameRecord (memRead ea s).2 u) :
    RecordGrows s (memWrite ea v u) :=
  (grows_of_read ea h).trans (memWrite_grows ea v u)

theorem branchIf_sameRecord (cond : State → Bool) (ea : Word) (s : State) : SameRecord s (branchIf cond ea s) := by
  unfold branchIf branch
  split <;> exact ⟨rfl, rfl, rfl⟩

theorem load_grows (r : Reg) (ea : Word) (s : State) : RecordGrows s (load r ea s) :=
  grows_of_read ea (by simp [SameRecord, load])

theorem callSubroutine_sameRecord (target : Word) (s : State) : SameRecord s (callSubroutine target s) := by
  simp [SameRecord, callSubroutine, jump]

/-- Every body makes its calls by at most one read and then at most one write. -/
theorem body_grows (i : Instr) (body : Word → State → State) (h : bodyOf i = some body) (ea : Word) (s : State) :
    RecordGrows s (body ea s) := by
  unfold bodyOf at h
  cases hm : i.mnemonic <;> simp only [hm, reduceCtorEq] at h
  case lda | ldx | ldy => cases h; exact load_grows _ ea s
  case sta | stx | sty => cases h; exact memWrite_grows ea _ s
  case inc | dec => cases h; exact grows_of_read_write ea ⟨rfl, rfl, rfl⟩
  case lsr =>
    split at h <;> cases h
    exact grows_of_read_write ea ⟨rfl, rfl, rfl⟩
  case jmp => cases h; exact SameRecord.grows ⟨rfl, rfl, rfl⟩
  case jsr => cases h; exact (callSubroutine_sameRecord ea s).grows
  case bpl | bmi | bcc | bcs | bne | beq => cases h; exact (branchIf_sameRecord _ ea s).grows
  case cmp | cpx | cpy | and | bit | adc | sbc => cases h; exact grows_of_read ea ⟨rfl, rfl, rfl⟩

/-- An instruction without an effective address makes no collaborator call. -/
theorem exec_implicit_sameRecord (i : Instr) (s t : State) (hb : bodyOf i = none) (h : exec i s = .next t) :
    SameRecord s t := by
  cases i <;> cases hb <;> cases h
  case rts => simp [SameRecord, returnFromSubroutine_eq]
  all_goals exact ⟨rfl, rfl, rfl⟩

theorem exec_grows (i : Instr) (s t : State) (h : exec i s = .next t) : RecordGrows s t := by
  cases hb : bodyOf i with
  | none => exact (exec_implicit_sameRecord i s t hb h).grows
  | some body =>
    obtain ⟨ea, -, he⟩ := exec_of_body i s body hb
    cases he.symm.trans h
    exact (resolve_grows i.operand s).trans (body_grows i body hb ea _)

theorem step_grows (s t : State) (h : step s = .next t) : RecordGrows s t := by
  have started : RecordGrows s s.markStarted := SameRecord.grows ⟨rfl, rfl, rfl⟩
  have opcode := started.trans (fetchNext_grows s.markStarted)
  obtain ⟨r, -, rfl⟩ | ⟨-, -, rfl⟩ | ⟨d, i, -, -, -, he⟩ := step_cases s t h
  · exact .refl t
  · exact opcode.trans (SameRecord.grows ⟨rfl, rfl, rfl⟩)
  · exact (opcode.trans (fetchBytes_grows _ _)).trans (exec_grows i _ t he)

/-! ## LOAD -/

/-- The cells after placing bytes that end by 0xFFFF: byte `i` at `start + i`, every other cell as it was (R40). -/
theorem baseRead_placeBytes (bytes : List Byte) (start a : Word) (s : State)
    (h : start.toNat + bytes.length ≤ 0x10000) :
    some (baseRead a (placeBytes start bytes s)) =
      if start.toNat ≤ a.toNat ∧ a.toNat - start.toNat < bytes.length then bytes[a.toNat - start.toNat]?
      else some (baseRead a s) := by
  induction bytes generalizing start s with
  | nil => simp [placeBytes]
  | cons b bytes ih =>
    have next : (start + 1#16).toNat = (start.toNat + 1) % 65536 := by simp
    have hstart := start.isLt
    rw [List.length_cons] at h ⊢
    rw [placeBytes, ih _ _ (by omega), baseRead_baseWrite]
    by_cases ha : a = start
    · subst ha
      rw [if_neg (by omega), if_pos rfl, if_pos (by omega), Nat.sub_self, List.getElem?_cons_zero]
    · have hne : a.toNat ≠ start.toNat := fun e => ha (BitVec.eq_of_toNat_eq e)
      rw [if_neg ha]
      by_cases hin : start.toNat ≤ a.toNat ∧ a.toNat - start.toNat < bytes.length + 1
      · have index : a.toNat - start.toNat = a.toNat - (start + 1#16).toNat + 1 := by omega
        rw [if_pos (by omega), if_pos hin, index, List.getElem?_cons_succ]
      · rw [if_neg (by omega), if_neg hin]

/-- LOAD taken before the first `STEP` is nothing but the placing of its bytes (R40). -/
theorem loadProgram_taken (bytes : List Byte) (s : State) (hs : s.started = false)
    (hl : bytes.length ≤ maxProgramLength) :
    loadProgram bytes s = .next (placeBytes programOrigin bytes s) := by
  simp [loadProgram, hs, programWellFormed, hl]

end Sys2Proof.Machine

open Sys2Proof Sys2Proof.Machine

/-- Settles O25: a step's new calls are those of its memory accesses, and only a write into the framebuffer reports a
pixel. -/
theorem pixelCallsStayInRange : Obligations.PixelCallsStayInRange := by
  intro s t h
  obtain ⟨new, r⟩ := step_grows s t h
  exact ⟨new, r.calls, r.inRange⟩

/-- Settles O26: every memory access of a step draws at most once, and the draws of successive accesses append. -/
theorem stepRecordsEveryDraw : Obligations.StepRecordsEveryDraw := by
  intro s t h
  obtain ⟨new, r⟩ := step_grows s t h
  obtain ⟨randCount, randAnswers⟩ := r.rand
  obtain ⟨keyCount, keyAnswers⟩ := r.key
  exact ⟨new, r.calls, randCount, keyCount, randAnswers, keyAnswers⟩

/-- Settles O52: the longest program ends at 0xFFFF, so no byte is placed twice and none below 0x0600. -/
theorem loadPlacesTheProgram : Obligations.LoadPlacesTheProgram := by
  intro bytes s hs hl
  have fits : programOrigin.toNat + bytes.length ≤ 0x10000 := by
    have origin : programOrigin.toNat = 0x600 := rfl
    rw [origin]
    omega
  exact ⟨_, loadProgram_taken bytes s hs hl, placeBytes_frame bytes programOrigin s,
    fun a => baseRead_placeBytes bytes programOrigin a s fits⟩

end

section
/-! SUPPORT. The family 10_state.md: what every instruction does to `pc`, `sp` and the run state, to registers and flags and
to the base store (EveryStepKeepsTheInvariant, ProgramCounterAfterAnInstruction, StackPointerAndRunStateFrame,
RegistersAndFlagsKeptByTheTable), the flags it does not read (FlagsNotReadDoNotMatter), and what a step fetches over plain
addresses (StepRunsTheDecodedInstruction). -/

namespace Sys2Proof

/-! ## Decoding with bytes left over -/

theorem takeOperand_mode {m : Mode} {bytes rest : List Byte} {o : Operand} (h : takeOperand m bytes = some (o, rest)) :
    o.mode = m := by
  unfold takeOperand at h
  split at h <;> cases h <;> rfl

theorem takeOperand_append {m : Mode} {bytes rest : List Byte} {o : Operand} (more : List Byte)
    (h : takeOperand m bytes = some (o, rest)) : takeOperand m (bytes ++ more) = some (o, rest ++ more) := by
  unfold takeOperand at h
  split at h <;> cases h <;> rfl

/-- The decoder answers `i` only where the opcode byte has the descriptor of `i`, and the bytes after it begin with the
operand of `i` (R65, R66). -/
theorem decode_cons_ok {op : Byte} {bytes rest : List Byte} {i : Instr} (h : decode (op :: bytes) = .ok (i, rest)) :
    descriptor op = some i.descriptor ∧ takeOperand i.descriptor.mode bytes = some (i.operand, rest) ∧
      assemble i.descriptor.mnemonic i.operand = some i := by
  cases hd : descriptor op with
  | none => simp [decode, hd] at h
  | some d =>
    cases ho : takeOperand d.mode bytes with
    | none => simp [decode, hd, ho] at h
    | some taken =>
      obtain ⟨o, rest'⟩ := taken
      cases ha : assemble d.mnemonic o with
      | none => simp [decode, hd, ho, ha] at h
      | some j =>
        obtain ⟨rfl, rfl⟩ : j = i ∧ rest' = rest := by simpa [decode, hd, ho, ha] using h
        obtain ⟨hm, rfl⟩ := assemble_parts _ _ _ ha
        have hj : j.descriptor = d := by rw [Instr.descriptor, hm, takeOperand_mode ho]
        rw [hj]
        exact ⟨rfl, ho, ha⟩

/-- Bytes after a decoded instruction do not change what is decoded. -/
theorem decode_append {op : Byte} {bytes rest : List Byte} {i : Instr} (more : List Byte)
    (h : decode (op :: bytes) = .ok (i, rest)) : decode (op :: (bytes ++ more)) = .ok (i, rest ++ more) := by
  obtain ⟨hd, ho, ha⟩ := decode_cons_ok h
  simp only [decode, hd, takeOperand_append more ho, ha]

end Sys2Proof

namespace Sys2Proof.Machine

/-! ## Fetching over plain addresses -/

/-- The bytes of an instruction of mode `m` are the first of the three at its address (R63). -/
theorem bytesAt_three (a : Word) (m : Mode) (s : State) :
    ∃ more, bytesAt a 3 s = bytesAt a (m.operandCount + 1) s ++ more := by
  cases m <;> exact ⟨_, rfl⟩

/-- Over plain addresses, the instruction fetched is the one that the bytes at `pc` decode to, and the fetch only moves
`pc` (R37, R82). -/
theorem fetchInstr_plain (s : State) (i : Instr) (rest : List Byte) (hd : decode (bytesAt s.pc 3 s) = .ok (i, rest))
    (hp : ∀ k, k < i.length → plainAddress (s.pc + BitVec.ofNat 16 k)) :
    fetchInstr s = (some i, s.putPc (s.pc + BitVec.ofNat 16 i.length)) := by
  have fetched := fetchBytes_plain i.length s hp
  have len : i.length = i.descriptor.mode.operandCount + 1 := Nat.add_comm _ _
  rw [len, fetchBytes, bytesAt, Prod.mk.injEq, List.cons.injEq] at fetched
  obtain ⟨⟨opcode, operands⟩, after⟩ := fetched
  obtain ⟨known, -, -⟩ := decode_cons_ok hd
  rw [← opcode] at known
  obtain ⟨j, hj, -, fetch⟩ := fetchInstr_decoded s i.descriptor known
  obtain ⟨more, cut⟩ := bytesAt_three s.pc i.descriptor.mode s
  have decoded : decode (bytesAt s.pc 3 s) = .ok (j, [] ++ more) := by
    rw [cut, bytesAt, ← opcode, ← operands]
    exact decode_append more hj
  cases hd.symm.trans decoded
  rw [fetch, after, len]

/-- A step that fetches an instruction runs it (R82). -/
theorem step_of_fetchInstr (s u : State) (i : Instr) (hr : s.run = .running)
    (hf : fetchInstr s.markStarted = (some i, u)) : step s = exec i u := by
  simp only [step, hr, hf]

/-! ## Equations of the bodies that Laws/Bodies.lean does not state -/

theorem addWithCarry_eq (ea : Word) (s : State) :
    addWithCarry ea s =
      setReg .a (adcSum s.a (memRead ea s).1 s.c)
        ((memRead ea s).2.putC (decide (255 < adcSum s.a (memRead ea s).1 s.c))) := rfl

theorem subtractWithCarry_eq (ea : Word) (s : State) :
    subtractWithCarry ea s =
      setReg .a (sbcDifference s.a (memRead ea s).1 s.c)
        ((memRead ea s).2.putC (decide (0 ≤ sbcDifference s.a (memRead ea s).1 s.c))) := rfl

theorem bitTest_eq (ea : Word) (s : State) :
    bitTest ea s = (memRead ea s).2.putNZ (memRead ea s).1.msb (s.a &&& (memRead ea s).1 == 0#8) := rfl

/-- A call pushes two bytes and moves `pc` (R52). -/
theorem callSubroutine_eq (target : Word) (s : State) :
    callSubroutine target s = (push (hiByte s.pc) (push (loByte s.pc) s)).putPc target := rfl

/-- A conditional branch changes `pc` at most (R39). -/
theorem branchIf_eq (cond : State → Bool) (ea : Word) (s : State) :
    branchIf cond ea s = s.putPc (if cond s then ea else s.pc) := by
  unfold branchIf branch
  split <;> rfl

/-! ## The program counter, the stack pointer and the run state -/

/-- The conditional branches (R109 to R114). -/
def branchMnemonics : List Mnemonic := [.bpl, .bmi, .bcc, .bcs, .bne, .beq]

/-- The instructions that write `pc`, `sp` or the run state (R24, R25, R27). -/
def controlMnemonics : List Mnemonic := [.jmp, .jsr, .rts, .brk] ++ branchMnemonics

/-- `pc`, `sp`, the run state and the mark that a `STEP` has run are the same in both states. -/
structure SameControl (s t : State) : Prop where
  pc : t.pc = s.pc
  sp : t.sp = s.sp
  run : t.run = s.run
  started : t.started = s.started

theorem SameControl.trans {s t u : State} (h1 : SameControl s t) (h2 : SameControl t u) : SameControl s u :=
  ⟨h2.pc.trans h1.pc, h2.sp.trans h1.sp, h2.run.trans h1.run, h2.started.trans h1.started⟩

theorem memWrite_sameControl (a : Word) (v : Byte) (s : State) : SameControl s (memWrite a v s) :=
  ⟨memWrite_pc a v s, memWrite_sp a v s, memWrite_run a v s, memWrite_started a v s⟩

theorem resolve_sameControl (o : Operand) (s : State) : SameControl s (resolve o s).2 :=
  ⟨resolve_pc o s, resolve_sp o s, resolve_run o s, resolve_started o s⟩

/-- A body that reads its operand and then only writes registers and flags. -/
theorem sameControl_of_read (ea : Word) {s t : State} (h : SameControl (memRead ea s).2 t) : SameControl s t :=
  .trans ⟨memRead_pc ea s, memRead_sp ea s, memRead_run ea s, memRead_started ea s⟩ h

/-- A read-modify-write body (R57). -/
theorem sameControl_of_read_write (ea : Word) {v : Byte} {s u : State} (h : SameControl (memRead ea s).2 u) :
    SameControl s (memWrite ea v u) :=
  (sameControl_of_read ea h).trans (memWrite_sameControl ea v u)

/-- A body outside control transfer reads its operand, computes on registers and flags, and stores at most. -/
theorem body_sameControl (i : Instr) (body : Word → State → State) (h : bodyOf i = some body)
    (hc : i.mnemonic ∉ controlMnemonics) (ea : Word) (s : State) : SameControl s (body ea s) := by
  unfold bodyOf at h
  cases hm : i.mnemonic <;> simp only [hm, reduceCtorEq] at h
  case lda | ldx | ldy | cmp | cpx | cpy | and | bit | adc | sbc =>
    cases h; exact sameControl_of_read ea ⟨rfl, rfl, rfl, rfl⟩
  case sta | stx | sty => cases h; exact memWrite_sameControl ea _ s
  case inc | dec => cases h; exact sameControl_of_read_write ea ⟨rfl, rfl, rfl, rfl⟩
  case lsr =>
    split at h <;> cases h
    exact sameControl_of_read_write ea ⟨rfl, rfl, rfl, rfl⟩
  case jmp | jsr | bpl | bmi | bcc | bcs | bne | beq => exact absurd (hm ▸ hc) (by decide)

theorem exec_implicit_sameControl (i : Instr) (s t : State) (hb : bodyOf i = none) (hc : i.mnemonic ∉ controlMnemonics)
    (h : exec i s = .next t) : SameControl s t := by
  cases i <;> cases hb <;> cases h
  case rts | brk => exact absurd hc (by decide)
  all_goals exact ⟨rfl, rfl, rfl, rfl⟩

theorem exec_sameControl (i : Instr) (s t : State) (hc : i.mnemonic ∉ controlMnemonics) (h : exec i s = .next t) :
    SameControl s t := by
  cases hb : bodyOf i with
  | none => exact exec_implicit_sameControl i s t hb hc h
  | some body =>
    obtain ⟨ea, -, he⟩ := exec_of_body i s body hb
    cases he.symm.trans h
    exact (resolve_sameControl i.operand s).trans (body_sameControl i body hb hc ea _)

/-- What an instruction that gives a next state does to `pc`, `sp` and the run state: nothing, a jump, a call, a return, a
conditional branch, or the halt of BRK. The last five fix the whole next state. -/
inductive ControlEffect (i : Instr) (s t : State) : Prop
  | keep (hm : i.mnemonic ∉ controlMnemonics) (h : SameControl s t)
  | jump (target : Word) (hi : i = .jmp target) (h : t = s.putPc target)
  | call (target : Word) (hi : i = .jsr target) (h : t = callSubroutine target s)
  | ret (hi : i = .rts) (h : t = returnFromSubroutine s)
  | branch (target after : Word) (hm : i.mnemonic ∈ branchMnemonics) (hr : (resolve i.operand s).1 = some target)
      (ha : after = s.pc ∨ after = target) (h : t = s.putPc after)
  | halt (hi : i = .brk) (h : t = haltStop s)

theorem branchIf_controlEffect (i : Instr) (s : State) (cond : State → Bool) (target : Word)
    (hm : i.mnemonic ∈ branchMnemonics) (hr : (resolve i.operand s).1 = some target) :
    ControlEffect i s (branchIf cond target s) := by
  refine .branch target (if cond s then target else s.pc) hm hr ?_ (branchIf_eq cond target s)
  split
  · exact .inr rfl
  · exact .inl rfl

theorem exec_control_controlEffect (i : Instr) (s t : State) (hc : i.mnemonic ∈ controlMnemonics)
    (h : exec i s = .next t) : ControlEffect i s t := by
  cases i
  case jmp addr => cases h; exact .jump addr rfl rfl
  case jsr addr => cases h; exact .call addr rfl rfl
  case rts => cases h; exact .ret rfl rfl
  case brk => cases h; exact .halt rfl rfl
  case bpl | bmi | bcc | bcs | bne | beq =>
    cases h
    exact branchIf_controlEffect _ s _ _ (by simp [branchMnemonics, Instr.mnemonic]) rfl
  all_goals simp [controlMnemonics, branchMnemonics, Instr.mnemonic] at hc

theorem exec_controlEffect (i : Instr) (s t : State) (h : exec i s = .next t) : ControlEffect i s t := by
  by_cases hc : i.mnemonic ∈ controlMnemonics
  · exact exec_control_controlEffect i s t hc h
  · exact .keep hc (exec_sameControl i s t hc h)

/-! ## The canonical form of the base store -/

theorem memWrite_keeps_wf (a : Word) (v : Byte) (s : State) (hs : Memory.wf s.mem = true) :
    Memory.wf (memWrite a v s).mem = true := by
  rw [memWrite_mem]
  exact Memory.wf_write _ _ _ a.isLt hs

theorem push_keeps_wf (v : Byte) (s : State) (hs : Memory.wf s.mem = true) : Memory.wf (push v s).mem = true :=
  memWrite_keeps_wf (stackAddress s.sp) v s hs

/-- A body that reads its operand and then writes no cell. -/
theorem wf_of_read (ea : Word) {s t : State} (h : t.mem = (memRead ea s).2.mem) (hs : Memory.wf s.mem = true) :
    Memory.wf t.mem = true := by
  rw [h, memRead_mem]
  exact hs

/-- Every body writes cells through `MemWrite` alone (R34, R45). -/
theorem body_keeps_wf (i : Instr) (body : Word → State → State) (h : bodyOf i = some body) (ea : Word) (s : State)
    (hs : Memory.wf s.mem = true) : Memory.wf (body ea s).mem = true := by
  unfold bodyOf at h
  cases hm : i.mnemonic <;> simp only [hm, reduceCtorEq] at h
  case lda | ldx | ldy | cmp | cpx | cpy | and | bit | adc | sbc => cases h; exact wf_of_read ea rfl hs
  case sta | stx | sty => cases h; exact memWrite_keeps_wf ea _ s hs
  case inc | dec => cases h; exact memWrite_keeps_wf ea _ _ (wf_of_read ea rfl hs)
  case lsr =>
    split at h <;> cases h
    exact memWrite_keeps_wf ea _ _ (wf_of_read ea rfl hs)
  case jmp => cases h; exact hs
  case jsr => cases h; exact push_keeps_wf _ _ (push_keeps_wf _ s hs)
  case bpl | bmi | bcc | bcs | bne | beq => cases h; rw [branchIf_eq]; exact hs

theorem exec_implicit_mem (i : Instr) (s t : State) (hb : bodyOf i = none) (h : exec i s = .next t) : t.mem = s.mem := by
  cases i <;> cases hb <;> cases h
  case rts => rw [returnFromSubroutine_eq]; rfl
  all_goals rfl

theorem exec_keeps_wf (i : Instr) (s t : State) (h : exec i s = .next t) (hs : Memory.wf s.mem = true) :
    Memory.wf t.mem = true := by
  cases hb : bodyOf i with
  | none => rw [exec_implicit_mem i s t hb h]; exact hs
  | some body =>
    obtain ⟨ea, -, he⟩ := exec_of_body i s body hb
    cases he.symm.trans h
    exact body_keeps_wf i body hb ea _ (by rw [resolve_mem]; exact hs)

/-! ## Registers and flags -/

/-- From `s` to `t`, every register and flag that the row `w` of R22 does not mark written keeps its value. -/
def KeepsUnlisted (w : Access) (s t : State) : Prop :=
  (w.writesA = false → t.a = s.a) ∧ (w.writesX = false → t.x = s.x) ∧ (w.writesY = false → t.y = s.y) ∧
    (w.writesC = false → t.c = s.c) ∧ (w.writesNZ = false → t.n = s.n ∧ t.z = s.z)

/-- LSR on memory has the row of R22 without A. -/
theorem access_lsr_memory (i : Instr) (hm : i.mnemonic = .lsr) (ho : i.operand ≠ .implicit) :
    i.access = { writesC := true, writesNZ := true } := by
  cases i <;> cases hm
  case lsrA => exact absurd rfl ho
  all_goals rfl

theorem body_keepsUnlisted (i : Instr) (body : Word → State → State) (h : bodyOf i = some body) (ea : Word)
    (s : State) : KeepsUnlisted i.access s (body ea s) := by
  unfold bodyOf at h
  cases hm : i.mnemonic <;> simp only [hm, reduceCtorEq] at h
  case lsr =>
    split at h <;> cases h
    next ho => simp [access_lsr_memory i hm ho, KeepsUnlisted, shiftRightMemory_eq]
  all_goals cases h; simp only [Instr.access, hm]
  case lda | ldx | ldy => simp [KeepsUnlisted, load_eq]
  case sta | stx | sty => simp [KeepsUnlisted, store]
  case inc | dec => simp [KeepsUnlisted, incrementMemory_eq, decrementMemory_eq]
  case jmp | jsr => simp [KeepsUnlisted, jump, callSubroutine_eq]
  case bpl | bmi | bcc | bcs | bne | beq => simp [KeepsUnlisted, branchIf_eq]
  case cmp | cpx | cpy => simp [KeepsUnlisted, compare_eq]
  case and | bit => simp [KeepsUnlisted, andAccumulator_eq, bitTest_eq]
  case adc | sbc => simp [KeepsUnlisted, addWithCarry_eq, subtractWithCarry_eq]

theorem exec_implicit_keepsUnlisted (i : Instr) (s t : State) (hb : bodyOf i = none) (h : exec i s = .next t) :
    KeepsUnlisted i.access s t := by
  cases i <;> cases hb <;> cases h
  case tax | tay | txa | tya => simp [KeepsUnlisted, Instr.access, Instr.mnemonic, transfer_eq]
  case inx | iny => simp [KeepsUnlisted, Instr.access, Instr.mnemonic, incrementRegister_eq]
  case dex | dey => simp [KeepsUnlisted, Instr.access, Instr.mnemonic, decrementRegister_eq]
  case lsrA =>
    simp [KeepsUnlisted, Instr.access, Instr.mnemonic, Instr.operand, Operand.mode, shiftRightAccumulator_eq]
  case clc | sec => simp [KeepsUnlisted, Instr.access, Instr.mnemonic]
  case rts => simp [KeepsUnlisted, returnFromSubroutine_eq]
  case nop | brk => simp [KeepsUnlisted, haltStop]

theorem exec_keepsUnlisted (i : Instr) (s t : State) (h : exec i s = .next t) : KeepsUnlisted i.access s t := by
  cases hb : bodyOf i with
  | none => exact exec_implicit_keepsUnlisted i s t hb h
  | some body =>
    obtain ⟨ea, -, he⟩ := exec_of_body i s body hb
    cases he.symm.trans h
    simpa [KeepsUnlisted] using body_keepsUnlisted i body hb ea (resolve i.operand s).2

/-! ## Flags that an instruction does not read -/

/-- The three flags (R18). -/
inductive Flag where
  | c
  | n
  | z

/-- The value of the flag. -/
def State.flag (f : Flag) (s : State) : Bool :=
  match f with
  | .c => s.c
  | .n => s.n
  | .z => s.z

/-- The flag written, and nothing else. -/
def State.putFlag (f : Flag) (b : Bool) (s : State) : State :=
  match f with
  | .c => { s with c := b }
  | .n => { s with n := b }
  | .z => { s with z := b }

/-- The row `w` of R22 marks the flag read. -/
def Flag.readBy (w : Access) : Flag → Bool
  | .c => w.readsC
  | .n => w.readsN
  | .z => w.readsZ

/-- The row `w` of R22 marks the flag written. -/
def Flag.writtenBy (w : Access) : Flag → Bool
  | .c => w.writesC
  | .n => w.writesNZ
  | .z => w.writesNZ

theorem memRead_putFlag (a : Word) (f : Flag) (b : Bool) (s : State) :
    memRead a (s.putFlag f b) = ((memRead a s).1, (memRead a s).2.putFlag f b) := by
  by_cases hr : a = randAddress
  · subst hr
    rw [memRead_rand, memRead_rand]
    cases f <;> rfl
  · by_cases hk : a = keyAddress
    · subst hk
      rw [memRead_key, memRead_key]
      cases f <;> rfl
    · rw [memRead_plain a _ hr hk, memRead_plain a s hr hk]
      cases f <;> rfl

theorem memWrite_putFlag (a : Word) (v : Byte) (f : Flag) (b : Bool) (s : State) :
    memWrite a v (s.putFlag f b) = (memWrite a v s).putFlag f b := by
  unfold memWrite
  cases f <;> split <;> rfl

theorem memWrite_flag (a : Word) (v : Byte) (f : Flag) (s : State) : (memWrite a v s).flag f = s.flag f := by
  cases f <;> simp [State.flag]

theorem push_putFlag (v : Byte) (f : Flag) (b : Bool) (s : State) :
    push v (s.putFlag f b) = (push v s).putFlag f b := by
  rw [push_eq, push_eq]
  cases f <;> rfl

theorem readPointer_putFlag (p : Byte) (f : Flag) (b : Bool) (s : State) :
    readPointer p (s.putFlag f b) = ((readPointer p s).1, (readPointer p s).2.putFlag f b) := by
  simp only [readPointer, memRead_putFlag]

/-- No resolution reads a flag (R72). -/
theorem resolve_putFlag (o : Operand) (f : Flag) (b : Bool) (s : State) :
    resolve o (s.putFlag f b) = ((resolve o s).1, (resolve o s).2.putFlag f b) := by
  cases o with
  | indexedIndirect p => cases f <;> simp only [resolve, resolveIndexedIndirect, readPointer_putFlag] <;> rfl
  | indirectIndexed p => cases f <;> simp only [resolve, resolveIndirectIndexed, readPointer_putFlag] <;> rfl
  | implicit | relative | immediate | zeroPage | zeroPageX | absolute => cases f <;> rfl

/-- A body's accesses carry an unread flag along, and its result keeps the flag or overwrites it. -/
theorem body_putFlag (i : Instr) (body : Word → State → State) (h : bodyOf i = some body) (ea : Word) (f : Flag)
    (b : Bool) (s : State) (hr : f.readBy i.access = false) :
    body ea (s.putFlag f b) = (body ea s).putFlag f (if f.writtenBy i.access then (body ea s).flag f else b) := by
  unfold bodyOf at h
  cases hm : i.mnemonic <;> simp only [hm, reduceCtorEq] at h
  case lsr =>
    split at h <;> cases h
    next ho =>
      rw [access_lsr_memory i hm ho, shiftRightMemory_eq, shiftRightMemory_eq, memRead_putFlag, memWrite_flag,
        ← memWrite_putFlag]
      cases f <;> rfl
  all_goals cases h; simp only [Instr.access, hm] at hr ⊢
  case lda | ldx | ldy => rw [load_eq, load_eq, memRead_putFlag]; cases f <;> rfl
  case sta | stx | sty => rw [store, memWrite_putFlag]; cases f <;> rfl
  case inc =>
    rw [incrementMemory_eq, incrementMemory_eq, memRead_putFlag, memWrite_flag, ← memWrite_putFlag]
    cases f <;> rfl
  case dec =>
    rw [decrementMemory_eq, decrementMemory_eq, memRead_putFlag, memWrite_flag, ← memWrite_putFlag]
    cases f <;> rfl
  case jmp => cases f <;> rfl
  case jsr => rw [callSubroutine_eq, push_putFlag, push_putFlag]; cases f <;> rfl
  case bpl | bmi | bcc | bcs | bne | beq =>
    rw [branchIf_eq, branchIf_eq]
    cases f <;> cases hr <;> rfl
  case cmp | cpx | cpy => rw [compare_eq, compare_eq, memRead_putFlag]; cases f <;> rfl
  case and => rw [andAccumulator_eq, andAccumulator_eq, memRead_putFlag]; cases f <;> rfl
  case bit => rw [bitTest_eq, bitTest_eq, memRead_putFlag]; cases f <;> rfl
  case adc =>
    rw [addWithCarry_eq, addWithCarry_eq, memRead_putFlag]
    cases f <;> cases hr <;> rfl
  case sbc =>
    rw [subtractWithCarry_eq, subtractWithCarry_eq, memRead_putFlag]
    cases f <;> cases hr <;> rfl

theorem exec_implicit_putFlag (i : Instr) (s t : State) (hb : bodyOf i = none) (h : exec i s = .next t) (f : Flag)
    (b : Bool) :
    exec i (s.putFlag f b) = .next (t.putFlag f (if f.writtenBy i.access then t.flag f else b)) := by
  cases i <;> cases hb <;> cases h
  case rts =>
    rw [returnFromSubroutine_eq]
    refine congrArg Host.Outcome.next ((returnFromSubroutine_eq _).trans ?_)
    cases f <;> rfl
  all_goals cases f <;> rfl

theorem exec_putFlag (i : Instr) (s t : State) (h : exec i s = .next t) (f : Flag) (b : Bool)
    (hr : f.readBy i.access = false) :
    exec i (s.putFlag f b) = .next (t.putFlag f (if f.writtenBy i.access then t.flag f else b)) := by
  cases hb : bodyOf i with
  | none => exact exec_implicit_putFlag i s t hb h f b
  | some body =>
    obtain ⟨ea, hea, he⟩ := exec_of_body i s body hb
    obtain ⟨ea', hea', he'⟩ := exec_of_body i (s.putFlag f b) body hb
    rw [resolve_putFlag] at hea' he'
    cases hea.symm.trans hea'
    cases he.symm.trans h
    rw [he', body_putFlag i body hb ea f b _ hr]

end Sys2Proof.Machine

open Sys2Proof Sys2Proof.Machine

/-- Settles O15: each case of `ControlEffect` says where `pc` stands. -/
theorem programCounterAfterAnInstruction : Obligations.ProgramCounterAfterAnInstruction := by
  intro i s t h
  obtain ⟨hm, same⟩ | ⟨_, rfl, rfl⟩ | ⟨_, rfl, rfl⟩ | ⟨rfl, rfl⟩ | ⟨target, after, hm, hr, ha, rfl⟩ | ⟨rfl, rfl⟩ :=
    exec_controlEffect i s t h
  · split
    case h_10 => exact same.pc
    all_goals next hi => exact absurd (hi ▸ hm) (by decide)
  · rfl
  · rfl
  · have second : s.sp + 1#8 + 1#8 = s.sp + 2#8 := by bv_omega
    simp only [Instr.mnemonic]
    rw [returnFromSubroutine_eq, State.putPc_pc, toNat_toWord, second]
  · have taken : after = s.pc ∨ some target = some after := ha.imp_right (congrArg some ·.symm)
    rw [hr]
    simp only [branchMnemonics, List.mem_cons, List.not_mem_nil, or_false] at hm
    rcases hm with hm | hm | hm | hm | hm | hm <;> rw [hm] <;> exact taken
  · rfl

/-- Settles O18: each case of `ControlEffect` says what becomes of `sp` and the run state. -/
theorem stackPointerAndRunStateFrame : Obligations.StackPointerAndRunStateFrame := by
  intro i s t h
  obtain ⟨hm, same⟩ | ⟨_, rfl, rfl⟩ | ⟨target, rfl, rfl⟩ | ⟨rfl, rfl⟩ | ⟨_, _, hm, _, _, rfl⟩ | ⟨rfl, rfl⟩ :=
    exec_controlEffect i s t h
  · simp only [controlMnemonics, List.cons_append, List.mem_cons, not_or] at hm
    obtain ⟨-, notJsr, notRts, notBrk, -⟩ := hm
    rw [if_neg notJsr, if_neg notRts, if_neg notBrk]
    exact ⟨same.sp, same.run, same.started⟩
  · exact ⟨rfl, rfl, rfl⟩
  · have twoLower : s.sp - 1#8 - 1#8 = s.sp - 2#8 := by bv_omega
    simp [callSubroutine_eq, Instr.mnemonic, twoLower]
  · have twoHigher : s.sp + 1#8 + 1#8 = s.sp + 2#8 := by bv_omega
    rw [returnFromSubroutine_eq, twoHigher]
    exact ⟨rfl, rfl, rfl⟩
  · have others : ∀ m ∈ branchMnemonics, m ≠ .jsr ∧ m ≠ .rts ∧ m ≠ .brk := by decide
    obtain ⟨notJsr, notRts, notBrk⟩ := others _ hm
    rw [if_neg notJsr, if_neg notRts, if_neg notBrk]
    exact ⟨rfl, rfl, rfl⟩
  · exact ⟨rfl, rfl, rfl⟩

/-- Settles O3: an executed step keeps the canonical form at every write, and it has marked itself as run before it can
halt. -/
theorem everyStepKeepsTheInvariant : Obligations.EveryStepKeepsTheInvariant := by
  intro s t hs h
  obtain ⟨wf, order⟩ := hs
  obtain ⟨r, -, rfl⟩ | ⟨-, -, rfl⟩ | ⟨d, i, -, -, -, he⟩ := step_cases s t h
  · exact ⟨wf, order⟩
  · exact ⟨by simpa [raiseDecodeError] using wf, fun _ => by simp [raiseDecodeError]⟩
  · obtain ⟨-, -, started⟩ := stackPointerAndRunStateFrame i _ t he
    exact ⟨exec_keeps_wf i _ t he (by simpa using wf), fun _ => by simp [started]⟩

/-- Settles O16: each body and each implicit meaning writes only what its row of R22 lists. -/
theorem registersAndFlagsKeptByTheTable : Obligations.RegistersAndFlagsKeptByTheTable :=
  exec_keepsUnlisted

/-- Settles O17: changing an unread flag commutes with every access, and so with every body. -/
theorem flagsNotReadDoNotMatter : Obligations.FlagsNotReadDoNotMatter := by
  intro i s t b h
  exact ⟨exec_putFlag i s t h .c b, exec_putFlag i s t h .n b, exec_putFlag i s t h .z b⟩

/-- Settles O20: the laws of `resolve` and `memRead` name every field outside the record. -/
theorem readsChangeOnlyTheCallRecord : Obligations.ReadsChangeOnlyTheCallRecord := by
  intro o a s
  constructor
  · refine ⟨(resolve o s).2.randCalls, (resolve o s).2.keyCalls, (resolve o s).2.calls, ?_⟩
    apply State.ext <;> simp
  · refine ⟨(memRead a s).2.randCalls, (memRead a s).2.keyCalls, (memRead a s).2.calls, ?_⟩
    apply State.ext <;> simp

/-- Settles O1: LOAD at reset only places its bytes, and `baseRead_placeBytes` gives every cell. -/
theorem resetLeavesTheStateOfTheSpec : Obligations.ResetLeavesTheStateOfTheSpec := by
  have blank : ∀ a, baseRead a State.reset = 0x00#8 := fun _ => rfl
  refine ⟨rfl, rfl, rfl, rfl, rfl, rfl, rfl, rfl, rfl, rfl, blank, fun program hl => ?_⟩
  refine ⟨_, loadProgram_taken program State.reset rfl hl, placeBytes_frame program programOrigin _, fun a => ?_⟩
  have origin : programOrigin.toNat = 0x600 := rfl
  have cell := baseRead_placeBytes program programOrigin a State.reset (by rw [origin]; omega)
  rw [origin, blank] at cell
  apply Option.some.inj
  rw [cell]
  by_cases above : 0x600 ≤ a.toNat
  · by_cases listed : a.toNat - 0x600 < program.length
    · simp [above, listed]
    · simp [above, listed]
  · simp [above]

/-- Settles O9: the fetch over plain addresses reads exactly the bytes that the decoder needs. -/
theorem stepRunsTheDecodedInstruction : Obligations.StepRunsTheDecodedInstruction := by
  intro s i rest hr hd _ hp
  rw [← bytesAt_congr 3 s.pc s.markStarted s rfl] at hd
  exact step_of_fetchInstr s _ i hr (fetchInstr_plain s.markStarted i rest hd hp)

/-- Settles O32: `NZ` and `SetReg` keep the byte `n mod 256`. -/
theorem normalizeAndRegisterWrite : Obligations.NormalizeAndRegisterWrite := by
  intro n s
  refine ⟨truncate8 n, toNat_truncate8 n, ?_⟩
  rw [← msb_eq_isNegative, ← beq_zero_eq_isZero]
  exact ⟨rfl, rfl, rfl, rfl⟩

end

section
/-! SUPPORT. The family 20_memory.md: reads and writes of the base store and through the decorator, the stack bytes and the
return addresses on it (StackIsLastInFirstOut, NestedCallsReturnToTheirCallers, CallPushesTheReturnAddress,
ReturnPullsTheReturnAddress, ReturnInvertsCall), the cells an instruction leaves alone (MemoryKeptOutsideTheStoredBytes),
and that every step answers (EveryStepGivesANextState). -/

namespace Sys2Proof.Machine

/-! ## Every step answers -/

/-- Every meaning answers a next state (R36, R129). -/
theorem exec_answers (i : Instr) (s : State) : ∃ t, exec i s = .next t := by
  cases hb : bodyOf i with
  | some body =>
    obtain ⟨ea, -, he⟩ := exec_of_body i s body hb
    exact ⟨_, he⟩
  | none => cases i <;> cases hb <;> exact ⟨_, rfl⟩

theorem step_halted (s : State) (r : HaltReason) (hr : s.run = .halted r) : step s = .next s := by
  simp only [step, hr]

theorem step_undecoded (s : State) (hr : s.run = .running) (hd : descriptor (fetchNext s.markStarted).1 = none) :
    step s = .next (raiseDecodeError (fetchNext s.markStarted).1 s.pc (fetchNext s.markStarted).2) := by
  simp only [step, hr, fetchInstr_undecoded _ hd, State.markStarted_pc]

/-! ## The cells of memory -/

theorem baseWrite_onlyCellWritten (a : Word) (v : Byte) (s : State) : OnlyCellWritten a v s (baseWrite a v s) :=
  fun k => baseRead_baseWrite k a v s

theorem memWrite_onlyCellWritten (a : Word) (v : Byte) (s : State) : OnlyCellWritten a v s (memWrite a v s) :=
  fun k => baseRead_memWrite k a v s

theorem push_onlyCellWritten (v : Byte) (s : State) : OnlyCellWritten (stackAddress s.sp) v s (push v s) :=
  fun k => baseRead_push k v s

/-- The record after a write, in the terms the statements use (R46). -/
theorem memWrite_calls_eq (a : Word) (v : Byte) (s : State) :
    (memWrite a v s).calls = callsAfterWrite a v s.calls := by
  rw [memWrite_calls, inFramebuffer_eq, callsAfterWrite]
  simp only [decide_eq_true_eq]
  rfl

/-- All that a write does: the base store and the record of pixel calls (R45, R46). -/
theorem memWrite_frame (a : Word) (v : Byte) (s : State) :
    memWrite a v s = { s with mem := (memWrite a v s).mem, calls := callsAfterWrite a v s.calls } := by
  apply State.ext <;> simp [memWrite_calls_eq]

/-- The framebuffer is read as plain memory (R42, R46). -/
theorem plainAddress_of_framebuffer (a : Word) (h : 0x0200 ≤ a.toNat) : plainAddress a := by
  constructor <;> rintro rfl <;> simp at h

/-- A write to another cell, in a state with the memory of `s`, leaves what `s` holds at `a`. -/
theorem baseRead_memWrite_other {a ea : Word} {s u : State} (v : Byte) (ha : a ≠ ea) (hu : u.mem = s.mem) :
    baseRead a (memWrite ea v u) = baseRead a s := by
  rw [baseRead_memWrite, if_neg ha, baseRead_congr a u s hu]

/-! ## The stack -/

/-- A push or pull address as the statements write it (R25). -/
theorem stackAddress_eq (sp : Byte) : stackAddress sp = 0x0100#16 + BitVec.ofNat 16 sp.toNat := rfl

theorem stackAddress_ne {p q : Byte} (h : p ≠ q) : stackAddress p ≠ stackAddress q :=
  fun e => h (stackAddress_injective p q e)

theorem pushAll_append (vs ws : List Byte) (s : State) : pushAll (vs ++ ws) s = pushAll ws (pushAll vs s) := by
  induction vs generalizing s with
  | nil => rfl
  | cons v vs ih => exact ih (push v s)

theorem pushAll_sp (vs : List Byte) (s : State) : (pushAll vs s).sp = s.sp - BitVec.ofNat 8 vs.length := by
  induction vs generalizing s with
  | nil => simp [pushAll]
  | cons v vs ih =>
    rw [pushAll, ih, push_sp, List.length_cons]
    bv_omega

/-- The stack byte that `q` names is reached by the push after `sp - q` others, and kept until then (R48, R50). -/
theorem baseRead_pushAll_unreached (vs : List Byte) (q : Byte) (s : State) (h : vs.length ≤ (s.sp - q).toNat) :
    baseRead (stackAddress q) (pushAll vs s) = baseRead (stackAddress q) s := by
  induction vs generalizing s with
  | nil => rfl
  | cons v vs ih =>
    rw [List.length_cons] at h
    have other : q ≠ s.sp := by bv_omega
    have later : vs.length ≤ ((push v s).sp - q).toNat := by
      rw [push_sp]
      bv_omega
    rw [pushAll, ih _ later, baseRead_push, if_neg (stackAddress_ne other)]

/-- The byte pushed first is still in its cell after up to 255 more pushes (R50). -/
theorem baseRead_pushAll_first (v : Byte) (vs : List Byte) (s : State) (h : vs.length ≤ 255) :
    baseRead (stackAddress s.sp) (pushAll (v :: vs) s) = v := by
  have unreached : vs.length ≤ ((push v s).sp - s.sp).toNat := by
    rw [push_sp]
    bv_omega
  rw [pushAll, baseRead_pushAll_unreached vs s.sp _ unreached, baseRead_push, if_pos rfl]

/-- The last of `count + 1` pulls, apart (R49). -/
theorem pullAll_succ (count : Nat) (s : State) :
    pullAll (count + 1) s = ((pullAll count s).1 ++ [(pull (pullAll count s).2).1], (pull (pullAll count s).2).2) := by
  induction count generalizing s with
  | zero => rfl
  | succ count ih =>
    rw [pullAll, ih]
    rfl

theorem pullAll_sp (count : Nat) (s : State) : (pullAll count s).2.sp = s.sp + BitVec.ofNat 8 count := by
  induction count generalizing s with
  | zero => simp [pullAll]
  | succ count ih =>
    rw [pullAll, ih, pull_eq, State.putSp_sp]
    bv_omega

theorem pullAll_mem (count : Nat) (s : State) : (pullAll count s).2.mem = s.mem := by
  induction count generalizing s with
  | zero => rfl
  | succ count ih => rw [pullAll, ih, pull_eq, State.putSp_mem]

/-- As many pulls as pushes leave `sp` where it was, however many they are (R50). -/
theorem pullAll_pushAll_sp (vs : List Byte) (s : State) : (pullAll vs.length (pushAll vs s)).2.sp = s.sp := by
  rw [pullAll_sp, pushAll_sp, BitVec.sub_add_cancel]

/-- Up to 256 bytes come back last pushed first: the last pull finds the first byte still in its cell (R50). -/
theorem pullAll_pushAll (vs : List Byte) (s : State) (h : vs.length ≤ 256) :
    (pullAll vs.length (pushAll vs s)).1 = vs.reverse := by
  induction vs generalizing s with
  | nil => rfl
  | cons v vs ih =>
    rw [List.length_cons] at h
    have cell : (pullAll vs.length (pushAll vs (push v s))).2.sp + 1#8 = s.sp := by
      rw [pullAll_pushAll_sp, push_sp, BitVec.sub_add_cancel]
    have last : (pull (pullAll vs.length (pushAll vs (push v s))).2).1 = v := by
      rw [pull_eq, cell, baseRead_congr _ _ _ (pullAll_mem _ _)]
      exact baseRead_pushAll_first v vs s (by omega)
    rw [List.length_cons, pullAll_succ, pushAll, ih _ (by omega), last, List.reverse_cons]

/-! ## Calls and returns -/

/-- The high byte of a word needs no second reduction (R51). -/
theorem hiByte_eq (w : Word) : hiByte w = BitVec.ofNat 8 (w.toNat / 256) := by
  apply BitVec.eq_of_toNat_eq
  rw [toNat_hiByte, BitVec.toNat_ofNat]
  omega

/-- The cells after a call: the low byte of `pc` at `0x0100 + sp`, its high byte one stack byte lower (R52). -/
theorem baseRead_callSubroutine (a target : Word) (s : State) :
    baseRead a (callSubroutine target s) =
      if a = stackAddress s.sp then loByte s.pc
      else if a = stackAddress (s.sp - 1#8) then hiByte s.pc else baseRead a s := by
  have apart : stackAddress s.sp ≠ stackAddress (s.sp - 1#8) := stackAddress_ne (by bv_omega)
  rw [callSubroutine_eq, baseRead_putPc, baseRead_push, push_sp, baseRead_push]
  by_cases low : a = stackAddress s.sp
  · rw [if_neg (low ▸ apart), if_pos low, if_pos low]
  · rw [if_neg low, if_neg low]

theorem callSubroutine_sp (target : Word) (s : State) : (callSubroutine target s).sp = s.sp - 2#8 := by
  rw [callSubroutine_eq, State.putPc_sp, push_sp, push_sp]
  bv_omega

/-- The top of the stack of `u` is the return address that a call made in `s` pushes: `sp` is two lower, and the two
bytes above it are those of the `pc` of `s` (R52). -/
structure ReturnsTo (s u : State) : Prop where
  sp : u.sp = s.sp - 2#8
  low : baseRead (stackAddress s.sp) u = loByte s.pc
  high : baseRead (stackAddress (s.sp - 1#8)) u = hiByte s.pc

theorem callSubroutine_returnsTo (target : Word) (s : State) : ReturnsTo s (callSubroutine target s) := by
  refine ⟨callSubroutine_sp target s, ?_, ?_⟩
  · rw [baseRead_callSubroutine, if_pos rfl]
  · rw [baseRead_callSubroutine, if_neg (stackAddress_ne (by bv_omega)), if_pos rfl]

/-- Only memory and `sp` decide where a state returns to. -/
theorem ReturnsTo.congr {s t u : State} (h : ReturnsTo s t) (hm : u.mem = t.mem) (hs : u.sp = t.sp) : ReturnsTo s u :=
  ⟨hs.trans h.sp, (baseRead_congr _ u t hm).trans h.low, (baseRead_congr _ u t hm).trans h.high⟩

/-- A return takes `pc` and `sp` back to the state of the call, and changes nothing else (R53). -/
theorem ReturnsTo.return_eq {s u : State} (h : ReturnsTo s u) :
    returnFromSubroutine u = (u.putSp s.sp).putPc s.pc := by
  have first : s.sp - 2#8 + 1#8 = s.sp - 1#8 := by bv_omega
  have second : s.sp - 1#8 + 1#8 = s.sp := by bv_omega
  rw [returnFromSubroutine_eq, h.sp, first, second, h.low, h.high, toWord_bytes]

/-- A call and its return inside a subroutine leave the subroutine's own return address on the stack (R54). -/
theorem ReturnsTo.after_nested {s u : State} (h : ReturnsTo s u) (target : Word) :
    ReturnsTo s (returnFromSubroutine (callSubroutine target u)) := by
  have kept : ∀ q : Byte, q ≠ u.sp → q ≠ u.sp - 1#8 →
      baseRead (stackAddress q) (callSubroutine target u) = baseRead (stackAddress q) u := by
    intro q h1 h2
    rw [baseRead_callSubroutine, if_neg (stackAddress_ne h1), if_neg (stackAddress_ne h2)]
  have back := (callSubroutine_returnsTo target u).return_eq
  have hsp := h.sp
  rw [back]
  refine ⟨hsp, ?_, ?_⟩
  · rw [baseRead_putPc, baseRead_putSp, kept s.sp (by bv_omega) (by bv_omega), h.low]
  · rw [baseRead_putPc, baseRead_putSp, kept (s.sp - 1#8) (by bv_omega) (by bv_omega), h.high]

/-! ## The cells an instruction leaves alone -/

/-- Run at the instruction's effective address, a body changes no cell that is not among the stored addresses. -/
theorem body_keeps_unstored (i : Instr) (body : Word → State → State) (h : bodyOf i = some body) (s : State)
    (a ea : Word) (hr : (resolve i.operand s).1 = some ea) (ha : a ∉ storedAddresses i s) :
    baseRead a (body ea (resolve i.operand s).2) = baseRead a s := by
  have resolved : (resolve i.operand s).2.mem = s.mem := resolve_mem i.operand s
  have read : (memRead ea (resolve i.operand s).2).2.mem = s.mem := (memRead_mem ea _).trans resolved
  unfold bodyOf at h
  cases hm : i.mnemonic <;> simp only [hm, reduceCtorEq] at h <;>
    simp only [storedAddresses, hm, hr, Option.toList_some, List.mem_cons, List.not_mem_nil, or_false, not_or] at ha
  case lda | ldx | ldy | cmp | cpx | cpy | and | bit | adc | sbc => cases h; exact baseRead_congr a _ s read
  case sta | stx | sty => cases h; exact baseRead_memWrite_other _ ha resolved
  case inc | dec => cases h; exact baseRead_memWrite_other _ ha read
  case lsr =>
    split at h <;> cases h
    exact baseRead_memWrite_other _ ha read
  case jmp => cases h; exact baseRead_congr a _ s resolved
  case bpl | bmi | bcc | bcs | bne | beq =>
    cases h
    rw [branchIf_eq]
    exact baseRead_congr a _ s resolved
  case jsr =>
    cases h
    obtain ⟨low, high⟩ := ha
    rw [baseRead_callSubroutine, resolve_sp, if_neg low, if_neg high]
    exact baseRead_congr a _ s resolved

end Sys2Proof.Machine

open Sys2Proof Sys2Proof.Machine

/-- Settles O10: the fetch of a known opcode always decodes, and each fetch moves `pc` by one. -/
theorem stepFetchesEveryByteThroughTheDecorator : Obligations.StepFetchesEveryByteThroughTheDecorator := by
  intro s d hr hd
  obtain ⟨i, decoded, rfl, fetched⟩ := fetchInstr_decoded s.markStarted d hd
  refine ⟨i, rfl, decoded, step_of_fetchInstr s _ i hr fetched, ?_⟩
  have length : BitVec.ofNat 16 i.length = 1#16 + BitVec.ofNat 16 i.descriptor.mode.operandCount :=
    BitVec.ofNat_add _ _
  rw [fetchBytes_pc, fetchNext_pc, State.markStarted_pc, length, BitVec.add_assoc]

/-- Settles O13: a Halted state answers itself, an undecoded byte the halted state, and every meaning a next state. -/
theorem everyStepGivesANextState : Obligations.EveryStepGivesANextState := by
  intro s
  cases hr : s.run with
  | halted r => exact ⟨s, step_halted s r hr⟩
  | running =>
    cases hd : descriptor (fetchNext s.markStarted).1 with
    | none => exact ⟨_, step_undecoded s hr hd⟩
    | some d =>
      obtain ⟨i, -, -, fetched⟩ := fetchInstr_decoded s.markStarted d hd
      rw [step_of_fetchInstr s _ i hr fetched]
      exact exec_answers i _

/-- Settles O19: a body writes only at the stored addresses, and an implicit meaning writes no cell. -/
theorem memoryKeptOutsideTheStoredBytes : Obligations.MemoryKeptOutsideTheStoredBytes := by
  intro i s t a h ha
  cases hb : bodyOf i with
  | none => exact baseRead_congr a t s (exec_implicit_mem i s t hb h)
  | some body =>
    obtain ⟨ea, hr, he⟩ := exec_of_body i s body hb
    cases he.symm.trans h
    exact body_keeps_unstored i body hb s a ea hr ha

/-- Settles O28: a stack cell is overwritten by the 256th push after its own and by none before. -/
theorem stackIsLastInFirstOut : Obligations.StackIsLastInFirstOut := by
  refine ⟨fun vs s h => ⟨pullAll_pushAll vs s h, pullAll_pushAll_sp vs s⟩,
    fun s => pullAll_pushAll [10, 20, 30] s (by decide), fun vs v w s h => ?_⟩
  have around : (pushAll (v :: vs) s).sp = s.sp := by
    rw [pushAll_sp, h]
    exact BitVec.sub_zero _
  have later : vs.length ≤ 255 := by
    rw [List.length_cons] at h
    omega
  refine ⟨around, baseRead_pushAll_first v vs s later, ?_⟩
  rw [pushAll_append, pushAll, pushAll, baseRead_push, around, if_pos rfl]

/-- Settles O29: the inner call and its return leave the outer return address on the stack. -/
theorem nestedCallsReturnToTheirCallers : Obligations.NestedCallsReturnToTheirCallers := by
  intro p q s
  have outer := (callSubroutine_returnsTo p s).after_nested q
  have inner := callSubroutine_returnsTo q (callSubroutine p s)
  refine ⟨rfl, ?_, ?_, ?_⟩
  · rw [inner.return_eq]
    rfl
  · rw [outer.return_eq]
    rfl
  · rw [outer.return_eq]
    rfl

/-- Settles O39: a call is two pushes and a jump. -/
theorem callPushesTheReturnAddress : Obligations.CallPushesTheReturnAddress := by
  refine ⟨decodesExactly_of_table _ _ (by decide) (by decide), fun addr s => ?_⟩
  refine ⟨callSubroutine addr s, rfl, rfl, rfl, ?_, fun a => ?_, ?_⟩
  · rw [callSubroutine_sp]
    bv_omega
  · rw [← hiByte_eq]
    exact baseRead_callSubroutine a addr s
  · apply State.ext <;> simp [callSubroutine_eq]

/-- Settles O40: a return is two pulls, high byte first, and a jump. -/
theorem returnPullsTheReturnAddress : Obligations.ReturnPullsTheReturnAddress := by
  refine ⟨decodesExactly_of_table _ _ (by decide) (by decide), fun s => ?_⟩
  have first : (s.sp + 1#8).toNat = (s.sp.toNat + 1) % 256 := by simp
  have second : (s.sp + 1#8 + 1#8).toNat = (s.sp.toNat + 2) % 256 := by bv_omega
  refine ⟨_, congrArg Host.Outcome.next (returnFromSubroutine_eq s), returnFromSubroutine_eq s, ?_, second, rfl⟩
  rw [State.putPc_pc, toNat_toWord, stackAddress_eq, stackAddress_eq, first, second]

/-- Settles O41: a return reads nothing of the state but memory and `sp`. -/
theorem returnInvertsCall : Obligations.ReturnInvertsCall := by
  intro addr s t u h hm hs
  cases h
  have returns := (callSubroutine_returnsTo addr s).congr hm hs
  exact ⟨_, congrArg Host.Outcome.next returns.return_eq, rfl, rfl⟩

/-- Settles O21: the three cases of the decorated read. -/
theorem interceptedReadsAreCollaboratorCalls : Obligations.InterceptedReadsAreCollaboratorCalls :=
  fun s => ⟨memRead_rand s, memRead_key s, fun a hr hk => memRead_plain a s hr hk⟩

/-- Settles O22: the read-after-write law of the base store. -/
theorem baseStoreReadAfterWrite : Obligations.BaseStoreReadAfterWrite :=
  fun a v s => ⟨baseWrite_onlyCellWritten a v s, rfl⟩

/-- Settles O23: a decorated write is a base write and, in the framebuffer, one pixel call. -/
theorem decoratedWritesReachTheStoreAndReportPixels : Obligations.DecoratedWritesReachTheStoreAndReportPixels := by
  refine ⟨fun a v s => ⟨memWrite_onlyCellWritten a v s, memWrite_frame a v s⟩, fun a s h _ => ?_⟩
  obtain ⟨hr, hk⟩ := plainAddress_of_framebuffer a h
  exact memRead_plain a s hr hk

/-- Settles O24: a plain read is the base store's, and an intercepted one never looks at it. -/
theorem writtenByteReadsBackExceptAtIntercepts : Obligations.WrittenByteReadsBackExceptAtIntercepts := by
  intro a v s
  refine ⟨?_, fun hr hk => ?_, ?_, ?_⟩
  · rw [baseRead_baseWrite, if_pos rfl]
  · rw [memRead_plain a _ hr hk, baseRead_memWrite, if_pos rfl]
  · rw [memRead_rand, memWrite_randCalls]
  · rw [memRead_key, memWrite_keyCalls]

/-- Settles O27: `push_eq` and `pull_eq`, with the wrap of `sp` as a number. -/
theorem pushAndPullMoveOneByte : Obligations.PushAndPullMoveOneByte := by
  intro v s
  refine ⟨push_onlyCellWritten v s, ?_, ?_, ?_⟩
  · rw [push_sp]
    bv_omega
  · rw [push_eq]
    rfl
  · rw [pull_eq]
    refine ⟨?_, rfl, rfl⟩
    simp

/-- Settles O53: LOAD looks first at whether a STEP has run, then at the length. -/
theorem loadIsRefusedTooLongOrTooLate : Obligations.LoadIsRefusedTooLongOrTooLate := by
  intro bytes s
  constructor
  · intro late
    rw [loadProgram, if_pos late]
  · intro early long
    have tooLong : ¬programWellFormed bytes = true := by simpa [programWellFormed] using long
    rw [loadProgram, if_neg (by simp [early]), if_neg tooLong]

end

section
/-! SUPPORT. The family 30_encoding.md: decoding and encoding undo each other (DecodingInvertsEncoding,
EncodingInvertsDecoding), the length of an instruction (InstructionLengthIsFixedByTheMode), and the bytes without a
descriptor (OneHundredSeventyBytesAreUndecoded). -/

namespace Sys2Proof

/-! ## The parts of an instruction and their bytes -/

/-- The family `Laws.Encoding` as one statement about any instruction, for proofs that do not split on it. -/
theorem encoding_statement (i : Instr) : Laws.Encoding.Statement i := by
  cases i <;> exact ⟨rfl, rfl⟩

theorem descriptor_opcode (i : Instr) : descriptor i.opcode = some i.descriptor :=
  (encoding_statement i).2

/-- No two rows of R66 share a (mnemonic, mode) pair. -/
theorem descriptorTable_descriptors_nodup : (descriptorTable.map fun r => r.descriptor).Nodup := by decide

/-- Only the instruction's own opcode byte has its descriptor (R66). -/
theorem descriptor_eq_some_descriptor_iff (op : Byte) (i : Instr) :
    descriptor op = some i.descriptor ↔ op = i.opcode := by
  constructor
  · intro h
    have row := (descriptor_eq_some_iff op i.descriptor).mp h
    have ownRow := (descriptor_eq_some_iff i.opcode i.descriptor).mp (descriptor_opcode i)
    exact congrArg DescriptorRow.opcode
      (List.inj_on_of_nodup_map descriptorTable_descriptors_nodup row ownRow rfl)
  · rintro rfl
    exact descriptor_opcode i

theorem takeOperand_bytes (o : Operand) (rest : List Byte) : takeOperand o.mode (o.bytes ++ rest) = some (o, rest) := by
  cases o with
  | absolute addr => simp [Operand.mode, Operand.bytes, takeOperand]
  | implicit | relative | immediate | zeroPage | zeroPageX | indexedIndirect | indirectIndexed => rfl

/-- An operand is taken exactly off its own bytes, low byte first where there are two (R65). -/
theorem takeOperand_eq_some_iff (m : Mode) (bytes rest : List Byte) (o : Operand) :
    takeOperand m bytes = some (o, rest) ↔ o.mode = m ∧ bytes = o.bytes ++ rest := by
  constructor
  · intro h
    refine ⟨takeOperand_mode h, ?_⟩
    unfold takeOperand at h
    split at h <;> cases h <;> simp [Operand.bytes]
  · rintro ⟨rfl, rfl⟩
    exact takeOperand_bytes o rest

theorem assemble_mnemonic_operand (i : Instr) : assemble i.mnemonic i.operand = some i := by
  cases i <;> rfl

/-! ## The decoder and the encoder -/

/-- The bytes that decode to `i` are those that begin with its encoding (R62, R65, R66). -/
theorem decode_eq_ok_iff (bytes rest : List Byte) (i : Instr) :
    decode bytes = .ok (i, rest) ↔ bytes = encode i ++ rest := by
  constructor
  · intro h
    cases bytes with
    | nil => cases h
    | cons op bytes =>
      obtain ⟨known, taken, -⟩ := decode_cons_ok h
      obtain rfl := (descriptor_eq_some_descriptor_iff op i).mp known
      obtain ⟨-, rfl⟩ := (takeOperand_eq_some_iff _ _ _ _).mp taken
      rfl
  · rintro rfl
    have taken : takeOperand i.descriptor.mode (i.operand.bytes ++ rest) = some (i.operand, rest) :=
      takeOperand_bytes i.operand rest
    have assembled : assemble i.descriptor.mnemonic i.operand = some i := assemble_mnemonic_operand i
    simp only [encode, List.cons_append, decode, descriptor_opcode, taken, assembled]

theorem decode_undecoded (op : Byte) (rest : List Byte) (h : descriptor op = none) :
    decode (op :: rest) = .error (.noDescriptor op) := by
  simp only [decode, h]

theorem operand_bytes_length (o : Operand) : o.bytes.length = o.mode.operandCount := by
  cases o <;> rfl

/-! ## The bytes that have a descriptor -/

theorem descriptor_isSome_iff (op : Byte) :
    (descriptor op).isSome = true ↔ ∃ r ∈ descriptorTable, r.opcode = op := by
  rw [descriptor, Option.isSome_map, List.find?_isSome]
  simp

/-- The bytes with a descriptor, as numbers, are the opcodes of the table. -/
theorem decodedBytes_perm :
    ((List.range 256).filter fun k => (descriptor (BitVec.ofNat 8 k)).isSome).Perm
      (descriptorTable.map fun r => r.opcode.toNat) := by
  have opcodes : (descriptorTable.map fun r => r.opcode.toNat).Nodup := by
    have h := descriptorTable_opcodes_nodup.map BitVec.toNat_injective
    rwa [List.map_map] at h
  refine (List.perm_ext_iff_of_nodup (List.nodup_range.filter _) opcodes).mpr fun k => ?_
  rw [List.mem_filter, List.mem_range, descriptor_isSome_iff, List.mem_map]
  constructor
  · rintro ⟨hk, r, hr, hop⟩
    exact ⟨r, hr, by rw [hop, BitVec.toNat_ofNat, Nat.mod_eq_of_lt hk]⟩
  · rintro ⟨r, hr, rfl⟩
    exact ⟨r.opcode.isLt, r, hr, by simp⟩

/-- 256 bytes less the 86 rows of the table. -/
theorem undecodedBytes_length :
    ((List.range 256).filter fun k => (descriptor (BitVec.ofNat 8 k)).isNone).length = 170 := by
  have decoded := decodedBytes_perm.length_eq
  have rows : descriptorTable.length = 86 := rfl
  have total := List.length_eq_length_filter_add (l := List.range 256) fun k => (descriptor (BitVec.ofNat 8 k)).isSome
  rw [decoded, List.length_map, rows, List.length_range] at total
  simp only [Option.not_isSome] at total
  omega

end Sys2Proof

open Sys2Proof Sys2Proof.Machine

/-- Settles O4: the encoding's opcode, operand bytes and assembly are each read back (`decode_eq_ok_iff`). -/
theorem decodingInvertsEncoding : Obligations.DecodingInvertsEncoding :=
  fun i rest => (decode_eq_ok_iff (encode i ++ rest) rest i).mpr rfl

/-- Settles O5: a descriptor has one opcode byte and an operand one byte string (`decode_eq_ok_iff`). -/
theorem encodingInvertsDecoding : Obligations.EncodingInvertsDecoding :=
  fun bytes rest i h => (decode_eq_ok_iff bytes rest i).mp h

/-- Settles O7: the operand's bytes are counted by its mode, and an undecoded byte is the only one fetched. -/
theorem instructionLengthIsFixedByTheMode : Obligations.InstructionLengthIsFixedByTheMode := by
  refine ⟨fun i => ⟨?_, ?_⟩, fun s hr hd => ⟨_, step_undecoded s hr hd, ?_⟩⟩
  · rw [encode, List.length_cons, operand_bytes_length]
    cases i.operand.mode <;> rfl
  · rw [descriptor_opcode]
    rfl
  · exact fetchNext_pc s.markStarted

/-- Settles O8: the table has 86 rows with different opcodes. -/
theorem oneHundredSeventyBytesAreUndecoded : Obligations.OneHundredSeventyBytesAreUndecoded :=
  ⟨undecodedBytes_length, decode_undecoded⟩

end

section
/-! SUPPORT. The family 40_addressing_modes.md: the effective addresses of the modes as numbers (DirectModesResolve,
IndirectModesResolve), and the two reads of a zero-page pointer. -/

namespace Sys2Proof.Machine

/-! ## The modes that read nothing beyond their operand bytes -/

/-- The target of a branch, as a number (R75). -/
theorem toNat_resolveRelative (offset : Byte) (s : State) :
    ((resolveRelative offset s).1.toNat : Int) = ((s.pc.toNat : Int) + signedOffset offset) % 65536 := by
  rw [resolveRelative, sext8_eq_signedOffset, BitVec.toNat_ofInt]
  omega

/-- `pc` stands one past the operand byte, also where that byte is at 0xFFFF (R76). -/
theorem resolveImmediate_succ (s : State) : (resolveImmediate s).1 + 1#16 = s.pc :=
  BitVec.sub_add_cancel s.pc 1#16

/-- The sum of operand and X stays in the zero page (R78). -/
theorem toNat_resolveZeroPageX (b : Byte) (s : State) :
    (resolveZeroPageX b s).1.toNat = (b.toNat + s.x.toNat) % 256 := by
  rw [resolveZeroPageX, toNat_zext16, BitVec.toNat_add]

/-! ## The modes that read a pointer -/

/-- The zero-page address of a byte sum, which wraps within the page (R78, R80, R81). -/
theorem zext16_add (b c : Byte) : zext16 (b + c) = BitVec.ofNat 16 ((b.toNat + c.toNat) % 256) := by
  rw [zext16, BitVec.toNat_add]

/-- A pointer is two decorated reads, the low byte's first, and the second from the state the first left (R80, R81). -/
theorem readPointer_reads (p : Byte) (s : State) : ∃ lo hi s1 s2,
    readPointer p s = (toWord lo hi, s2) ∧ memRead (zext16 p) s = (lo, s1) ∧
      memRead (BitVec.ofNat 16 ((p.toNat + 1) % 256)) s1 = (hi, s2) := by
  have highCell : zext16 (p + 1#8) = BitVec.ofNat 16 ((p.toNat + 1) % 256) := zext16_add p 1#8
  rw [← highCell]
  exact ⟨_, _, _, _, rfl, rfl, rfl⟩

/-- A pointer plus Y, as a number: the sum wraps at 64 KiB (R81). -/
theorem toNat_toWord_add_zext16 (lo hi y : Byte) :
    (toWord lo hi + zext16 y).toNat = (hi.toNat * 256 + lo.toNat + y.toNat) % 65536 := by
  rw [BitVec.toNat_add, toNat_toWord, toNat_zext16]

end Sys2Proof.Machine

open Sys2Proof Sys2Proof.Machine

/-- Settles O30: one address law for each mode; the state is the one the resolution began in. -/
theorem directModesResolve : Obligations.DirectModesResolve := by
  refine ⟨⟨rfl, rfl, rfl, rfl, rfl, rfl⟩, fun lo hi _ => ⟨_, toNat_toWord lo hi, rfl⟩, fun s => ?_⟩
  exact ⟨rfl,
    fun offset => ⟨_, rfl, toNat_resolveRelative offset s⟩,
    fun _ => ⟨_, rfl, resolveImmediate_succ s⟩,
    fun b => ⟨_, rfl, toNat_zext16 b⟩,
    fun b => ⟨_, rfl, toNat_resolveZeroPageX b s⟩,
    fun _ => rfl⟩

/-- Settles O31: both modes are one pointer read (`readPointer_reads`), at the indexed or at the plain operand. -/
theorem indirectModesResolve : Obligations.IndirectModesResolve := by
  refine ⟨⟨rfl, rfl⟩, fun z s => ⟨?_, ?_⟩⟩
  · obtain ⟨lo, hi, s1, s2, pointer, low, high⟩ := readPointer_reads (z + s.x) s
    rw [zext16_add] at low
    rw [BitVec.toNat_add] at high
    refine ⟨toWord lo hi, lo, hi, s1, s2, ?_, low, high, toNat_toWord lo hi⟩
    rw [resolve, resolveIndexedIndirect, pointer]
  · obtain ⟨lo, hi, s1, s2, pointer, low, high⟩ := readPointer_reads z s
    refine ⟨toWord lo hi + zext16 s.y, lo, hi, s1, s2, ?_, low, high, toNat_toWord_add_zext16 lo hi s.y⟩
    rw [resolve, resolveIndirectIndexed, pointer]

end

section
/-! SUPPORT. The family 41_execution_loop.md: RUN under fuel and the first Halted state of a run
(RunEndsAtTheFirstHaltedState). -/

namespace Sys2Proof.Machine

/-! ## RUN and the core's run, one step at a time -/

theorem runUntilHalted_of_halted (fuel : Nat) {s : State} (hs : s.isHalted = true) : runUntilHalted fuel s = some s := by
  cases fuel <;> rw [runUntilHalted, if_pos hs]

theorem runUntilHalted_zero (s t : State) : runUntilHalted 0 s = some t ↔ s = t ∧ t.isHalted = true := by
  rw [runUntilHalted, Option.ite_none_right_eq_some, Option.some_inj, and_comm]
  exact and_congr_right fun h => by rw [h]

theorem runUntilHalted_succ_of_running (fuel : Nat) {s next : State} (hs : s.isHalted = false)
    (hstep : step s = .next next) : runUntilHalted (fuel + 1) s = runUntilHalted fuel next := by
  simp only [runUntilHalted, hs, hstep, Bool.false_eq_true, if_false]

theorem coreRun_succ_of_step (M : Host.Core) (k : Nat) {s next : M.State} (hstep : M.step s = .next next) :
    M.run (k + 1) s = M.run k next := by
  rw [Host.Core.run, hstep]

theorem run_succ_of_step (k : Nat) {s next : State} (hstep : step s = .next next) :
    Host.Core.run Sys2Proof.core (k + 1) s = Host.Core.run Sys2Proof.core k next :=
  coreRun_succ_of_step Sys2Proof.core k hstep

/-! ## The first Halted state of a run -/

/-- `k` steps lead from `s` to `t`, which is Halted, and no state after fewer steps is (R88, R89). -/
def FirstHaltedAfter (k : Nat) (s t : State) : Prop :=
  Host.Core.run Sys2Proof.core k s = .next t ∧ t.isHalted = true ∧
    ∀ (j : Nat) (u : State), j < k → Host.Core.run Sys2Proof.core j s = .next u → u.isHalted = false

theorem firstHaltedAfter_zero (s t : State) : FirstHaltedAfter 0 s t ↔ s = t ∧ t.isHalted = true := by
  constructor
  · rintro ⟨⟨⟩, ht, -⟩
    exact ⟨rfl, ht⟩
  · rintro ⟨rfl, ht⟩
    exact ⟨rfl, ht, fun j u hj => absurd hj (Nat.not_lt_zero j)⟩

/-- A state from which the first Halted state is a step or more away is itself Running. -/
theorem FirstHaltedAfter.running {k : Nat} {s t : State} (h : FirstHaltedAfter (k + 1) s t) : s.isHalted = false := by
  obtain ⟨-, -, running⟩ := h
  exact running 0 s (Nat.succ_pos k) rfl

theorem firstHaltedAfter_succ (k : Nat) {s next : State} (t : State) (hs : s.isHalted = false)
    (hstep : step s = .next next) : FirstHaltedAfter (k + 1) s t ↔ FirstHaltedAfter k next t := by
  constructor
  · rintro ⟨reached, ht, running⟩
    rw [run_succ_of_step k hstep] at reached
    refine ⟨reached, ht, fun j u hj hu => running (j + 1) u (Nat.succ_lt_succ hj) ?_⟩
    rw [run_succ_of_step j hstep, hu]
  · rintro ⟨reached, ht, running⟩
    refine ⟨(run_succ_of_step k hstep).trans reached, ht, fun j u hj hu => ?_⟩
    cases j with
    | zero =>
      cases hu
      exact hs
    | succ j =>
      rw [run_succ_of_step j hstep] at hu
      exact running j u (Nat.lt_of_succ_lt_succ hj) hu

/-- From a Halted state the first Halted state is that state, at once. -/
theorem firstHaltedAfter_of_halted (k : Nat) {s : State} (t : State) (hs : s.isHalted = true) :
    FirstHaltedAfter k s t ↔ k = 0 ∧ s = t := by
  cases k with
  | zero =>
    rw [firstHaltedAfter_zero, and_iff_right rfl]
    exact and_iff_left_of_imp fun h => h ▸ hs
  | succ k =>
    constructor
    · intro h
      cases hs.symm.trans h.running
    · rintro ⟨⟨⟩, -⟩

/-- From a Running state the first Halted state within `fuel + 1` steps is the next state's within `fuel`. -/
theorem exists_firstHaltedAfter_succ (fuel : Nat) {s next : State} (t : State) (hs : s.isHalted = false)
    (hstep : step s = .next next) :
    (∃ k, k ≤ fuel + 1 ∧ FirstHaltedAfter k s t) ↔ ∃ k, k ≤ fuel ∧ FirstHaltedAfter k next t := by
  constructor
  · rintro ⟨k, hk, h⟩
    cases k with
    | zero =>
      obtain ⟨rfl, ht⟩ := (firstHaltedAfter_zero s t).mp h
      cases hs.symm.trans ht
    | succ k => exact ⟨k, Nat.le_of_succ_le_succ hk, (firstHaltedAfter_succ k t hs hstep).mp h⟩
  · rintro ⟨k, hk, h⟩
    exact ⟨k + 1, Nat.succ_le_succ hk, (firstHaltedAfter_succ k t hs hstep).mpr h⟩

/-- RUN answers exactly the first Halted state that the fuel reaches: a Halted state answers itself, and a Running one
what its next state answers with one step less of fuel. -/
theorem runUntilHalted_eq_some_iff (fuel : Nat) (s t : State) :
    runUntilHalted fuel s = some t ↔ ∃ k, k ≤ fuel ∧ FirstHaltedAfter k s t := by
  induction fuel generalizing s with
  | zero => simp only [runUntilHalted_zero, Nat.le_zero, exists_eq_left, firstHaltedAfter_zero]
  | succ fuel ih =>
    cases hs : s.isHalted with
    | true =>
      rw [runUntilHalted_of_halted _ hs, Option.some_inj]
      simp [firstHaltedAfter_of_halted _ t hs]
    | false =>
      obtain ⟨next, hstep⟩ := everyStepGivesANextState s
      rw [runUntilHalted_succ_of_running fuel hs hstep, exists_firstHaltedAfter_succ fuel t hs hstep]
      exact ih next

end Sys2Proof.Machine

open Sys2Proof Sys2Proof.Machine

/-- Settles O54: the statement is `runUntilHalted_eq_some_iff` with `FirstHaltedAfter` written out. -/
theorem runEndsAtTheFirstHaltedState : Obligations.RunEndsAtTheFirstHaltedState :=
  runUntilHalted_eq_some_iff

end

section
/-! SUPPORT. The family 42_load_store.md: loads (LoadsWriteRegisterAndFlags), stores (StoresWriteMemoryOnly) and transfers
(TransfersCopyARegister), each proved once for every register. -/

namespace Sys2Proof.Machine

/-! ## An instruction at its effective address -/

/-- An instruction with a body resolves its effective address once and answers the body there (R72, R82). -/
theorem exec_resolved (i : Instr) (s : State) (body : Word → State → State) (h : bodyOf i = some body) :
    ∃ ea s1, resolve i.operand s = (some ea, s1) ∧ exec i s = .next (body ea s1) := by
  obtain ⟨ea, hr, he⟩ := exec_of_body i s body h
  exact ⟨ea, _, Prod.ext hr rfl, he⟩

theorem resolve_reg (r : Reg) (o : Operand) (s : State) : (resolve o s).2.reg r = s.reg r := by
  cases r with
  | a => exact resolve_a o s
  | x => exact resolve_x o s
  | y => exact resolve_y o s

/-! ## Register writes -/

/-- A byte written to a register, in the terms the statements use (R16, R17). -/
theorem setReg_toNat (r : Reg) (v : Byte) (s : State) :
    setReg r v.toNat s = (s.putNZ (isNegative v) (isZero v)).putReg r v := by
  rw [setReg_byte, msb_eq_isNegative, beq_zero_eq_isZero]

/-- A load reads its operand and writes it to the register (R90 to R92). -/
theorem exec_load (r : Reg) (i : Instr) (s : State) (h : bodyOf i = some (load r)) :
    ∃ ea m s2, ReadsOperand i s ea m s2 ∧
      exec i s = .next ((s2.putNZ (isNegative m) (isZero m)).putReg r m) := by
  obtain ⟨ea, s1, hr, he⟩ := exec_resolved i s (load r) h
  refine ⟨ea, (memRead ea s1).1, (memRead ea s1).2, ⟨s1, hr, rfl⟩, ?_⟩
  rw [he, load, setReg_toNat]

/-- A transfer writes the source's value to the target (R96 to R99). -/
theorem transfer_flags (source target : Reg) (s : State) :
    transfer source target s =
      (s.putNZ (isNegative (s.reg source)) (isZero (s.reg source))).putReg target (s.reg source) :=
  setReg_toNat target (s.reg source) s

/-! ## Stores -/

/-- A store is one decorated write of the register, which the resolution has not changed (R93 to R95). -/
theorem exec_store (r : Reg) (i : Instr) (s : State) (h : bodyOf i = some (store r)) :
    ∃ ea s1 t, resolve i.operand s = (some ea, s1) ∧ exec i s = .next t ∧ OnlyCellWritten ea (s.reg r) s t ∧
      t = { s1 with mem := t.mem, calls := callsAfterWrite ea (s.reg r) s1.calls } := by
  obtain ⟨ea, s1, hr, he⟩ := exec_resolved i s (store r) h
  have resolved : (resolve i.operand s).2 = s1 := congrArg Prod.snd hr
  have register : s1.reg r = s.reg r := resolved ▸ resolve_reg r i.operand s
  have memory : s1.mem = s.mem := resolved ▸ resolve_mem i.operand s
  rw [store, register] at he
  exact ⟨ea, s1, _, hr, he, onlyCellWritten_congr ea _ s s1 _ memory (memWrite_onlyCellWritten ea _ s1),
    memWrite_frame ea _ s1⟩

end Sys2Proof.Machine

open Sys2Proof Sys2Proof.Machine

/-- Settles O33: the table has exactly the listed rows, and every form of a load mnemonic is `exec_load`. -/
theorem loadsWriteRegisterAndFlags : Obligations.LoadsWriteRegisterAndFlags := by
  refine ⟨decodesExactly_of_table _ _ (by decide) (by decide), decodesExactly_of_table _ _ (by decide) (by decide),
    decodesExactly_of_table _ _ (by decide) (by decide), by decide, ?_, ?_, ?_⟩
  · exact fun i s hm => exec_load .a i s (by rw [bodyOf, hm])
  · exact fun i s hm => exec_load .x i s (by rw [bodyOf, hm])
  · exact fun i s hm => exec_load .y i s (by rw [bodyOf, hm])

/-- Settles O34: the table has exactly the listed rows, and every form of a store mnemonic is `exec_store`. -/
theorem storesWriteMemoryOnly : Obligations.StoresWriteMemoryOnly := by
  refine ⟨decodesExactly_of_table _ _ (by decide) (by decide), decodesExactly_of_table _ _ (by decide) (by decide),
    decodesExactly_of_table _ _ (by decide) (by decide), by decide, ?_, ?_, ?_⟩
  · exact fun i s hm => exec_store .a i s (by rw [bodyOf, hm])
  · exact fun i s hm => exec_store .x i s (by rw [bodyOf, hm])
  · exact fun i s hm => exec_store .y i s (by rw [bodyOf, hm])

/-- Settles O35: each of the four is `transfer` at its two registers. -/
theorem transfersCopyARegister : Obligations.TransfersCopyARegister := by
  refine ⟨decodesExactly_of_table _ _ (by decide) (by decide), decodesExactly_of_table _ _ (by decide) (by decide),
    decodesExactly_of_table _ _ (by decide) (by decide), decodesExactly_of_table _ _ (by decide) (by decide),
    fun s => ⟨?_, ?_, ?_, ?_⟩⟩
  · exact congrArg Host.Outcome.next (transfer_flags .a .x s)
  · exact congrArg Host.Outcome.next (transfer_flags .a .y s)
  · exact congrArg Host.Outcome.next (transfer_flags .x .a s)
  · exact congrArg Host.Outcome.next (transfer_flags .y .a s)

end

section
/-! SUPPORT. The family 43_inc_dec.md: a read-modify-write instruction (MemoryIncrementAndDecrement) and a register stepped
through SetReg (RegisterIncrementAndDecrement), each proved once for whatever integer result it computes. -/

namespace Sys2Proof.Machine

/-! ## Read, modify, write -/

/-- The reads that give an instruction its operand leave the base store alone (R42, R72). -/
theorem ReadsOperand.mem_eq {i : Instr} {s s2 : State} {ea : Word} {m : Byte} (h : ReadsOperand i s ea m s2) :
    s2.mem = s.mem := by
  obtain ⟨s1, resolved, read⟩ := h
  calc s2.mem = (memRead ea s1).2.mem := by rw [read]
    _ = s1.mem := memRead_mem ea s1
    _ = (resolve i.operand s).2.mem := by rw [resolved]
    _ = s.mem := resolve_mem i.operand s

theorem storeResult_onlyCellWritten (n : Int) (ea : Word) {s u : State} (hu : u.mem = s.mem) :
    OnlyCellWritten ea (truncate8 n) s (storeResult n ea u) :=
  onlyCellWritten_congr ea _ s (nz n u).2 _ hu (memWrite_onlyCellWritten ea _ _)

/-- All that storing a result does: N and Z, one cell, and the record of pixel calls (R17, R45, R46). -/
theorem storeResult_frame (n : Int) (ea : Word) (s : State) :
    storeResult n ea s =
      { s with
        mem := (storeResult n ea s).mem, n := isNegative (truncate8 n), z := isZero (truncate8 n),
        calls := callsAfterWrite ea (truncate8 n) s.calls } := by
  rw [← msb_eq_isNegative, ← beq_zero_eq_isZero]
  exact memWrite_frame ea (truncate8 n) (nz n s).2

/-- A body that reads its cell once and stores `result` of the byte it read, run at the instruction's effective address
(R57, R100, R101). -/
theorem exec_readModifyWrite (result : Byte → Int) (i : Instr) (s : State) (body : Word → State → State)
    (h : bodyOf i = some body)
    (hb : ∀ ea u, body ea u = storeResult (result (memRead ea u).1) ea (memRead ea u).2) :
    ∃ ea m s2 r t, ReadsOperand i s ea m s2 ∧ (r.toNat : Int) = result m % 256 ∧ exec i s = .next t ∧
      OnlyCellWritten ea r s t ∧
      t = { s2 with mem := t.mem, n := isNegative r, z := isZero r, calls := callsAfterWrite ea r s2.calls } := by
  obtain ⟨ea, s1, hr, he⟩ := exec_resolved i s body h
  have reads : ReadsOperand i s ea (memRead ea s1).1 (memRead ea s1).2 := ⟨s1, hr, rfl⟩
  rw [hb] at he
  exact ⟨ea, _, _, _, _, reads, toNat_truncate8 _, he, storeResult_onlyCellWritten _ ea reads.mem_eq,
    storeResult_frame _ ea _⟩

/-! ## A register stepped -/

/-- An instruction that is one `SetReg` puts the result mod 256 in the register and sets its N and Z (R16, R17). -/
theorem exec_of_setReg (r : Reg) (n : Int) (i : Instr) (s : State) (h : exec i s = .next (setReg r n s)) :
    ∃ m : Byte, (m.toNat : Int) = n % 256 ∧ exec i s = .next ((s.putNZ (isNegative m) (isZero m)).putReg r m) := by
  refine ⟨truncate8 n, toNat_truncate8 n, ?_⟩
  rw [h, setReg_eq, msb_eq_isNegative, beq_zero_eq_isZero]

end Sys2Proof.Machine

open Sys2Proof Sys2Proof.Machine

/-- Settles O36: the table has exactly the listed rows, and every form of INC and DEC is `exec_readModifyWrite` at the byte
plus or minus 1. -/
theorem memoryIncrementAndDecrement : Obligations.MemoryIncrementAndDecrement := by
  refine ⟨decodesExactly_of_table _ _ (by decide) (by decide), decodesExactly_of_table _ _ (by decide) (by decide), ?_, ?_⟩
  · exact fun i s hm =>
      exec_readModifyWrite (fun m => m.toNat + 1) i s incrementMemory (by rw [bodyOf, hm]) fun _ _ => rfl
  · exact fun i s hm =>
      exec_readModifyWrite (fun m => m.toNat - 1) i s decrementMemory (by rw [bodyOf, hm]) fun _ _ => rfl

/-- Settles O37: each of the four is one `SetReg` of its register plus or minus 1. -/
theorem registerIncrementAndDecrement : Obligations.RegisterIncrementAndDecrement := by
  refine ⟨decodesExactly_of_table _ _ (by decide) (by decide), decodesExactly_of_table _ _ (by decide) (by decide),
    decodesExactly_of_table _ _ (by decide) (by decide), decodesExactly_of_table _ _ (by decide) (by decide),
    fun s => ⟨?_, ?_, ?_, ?_⟩⟩
  · exact exec_of_setReg .x (s.x.toNat + 1) .inx s rfl
  · exact exec_of_setReg .y (s.y.toNat + 1) .iny s rfl
  · exact exec_of_setReg .x (s.x.toNat - 1) .dex s rfl
  · exact exec_of_setReg .y (s.y.toNat - 1) .dey s rfl

end

section
/-! SUPPORT. The family 44_control_transfer.md: the six conditional branches (BranchesTestTheirFlag), proved once for
whatever flag one tests, and JMP (JumpSetsTheProgramCounter). -/

namespace Sys2Proof.Machine

/-- A conditional branch moves `pc` to its relative target exactly when its condition `P` holds, and changes nothing else
(R39, R75). -/
theorem exec_branch (i : Instr) (offset : Byte) (s : State) (cond : State → Bool) (P : Prop) [Decidable P]
    (hb : bodyOf i = some (branchIf cond)) (ho : i.operand = .relative offset) (hc : cond s = true ↔ P) :
    exec i s = .next { s with pc := if P then (resolveRelative offset s).1 else s.pc } := by
  obtain ⟨ea, hr, he⟩ := exec_of_body i s (branchIf cond) hb
  rw [ho] at hr he
  obtain rfl : (resolveRelative offset s).1 = ea := Option.some.inj hr
  calc exec i s = .next (branchIf cond (resolveRelative offset s).1 s) := he
    _ = .next (s.putPc (if P then (resolveRelative offset s).1 else s.pc)) := by
      rw [branchIf_eq, if_congr hc rfl rfl]

/-- JMP is `jump` at its operand word, which an absolute operand resolves to without a read (R79, R106). -/
theorem exec_jmp (addr : Word) (s : State) : exec (.jmp addr) s = .next (s.putPc addr) := by
  obtain ⟨ea, hr, he⟩ := exec_of_body (.jmp addr) s jump rfl
  obtain rfl : addr = ea := Option.some.inj hr
  exact he

end Sys2Proof.Machine

open Sys2Proof Sys2Proof.Machine

/-- Settles O42: the table has exactly the listed rows, and each of the six is `exec_branch` at its own flag, all with the
target of `toNat_resolveRelative`. -/
theorem branchesTestTheirFlag : Obligations.BranchesTestTheirFlag := by
  refine ⟨decodesExactly_of_table _ _ (by decide) (by decide), decodesExactly_of_table _ _ (by decide) (by decide),
    decodesExactly_of_table _ _ (by decide) (by decide), decodesExactly_of_table _ _ (by decide) (by decide),
    decodesExactly_of_table _ _ (by decide) (by decide), decodesExactly_of_table _ _ (by decide) (by decide),
    fun offset s => ⟨(resolveRelative offset s).1, toNat_resolveRelative offset s, ?_, ?_, ?_, ?_, ?_, ?_⟩⟩
  · exact exec_branch (.bpl offset) offset s (fun s => !s.n) (s.n = false) rfl rfl (Bool.not_eq_true' _).to_iff
  · exact exec_branch (.bmi offset) offset s (fun s => s.n) (s.n = true) rfl rfl .rfl
  · exact exec_branch (.bcc offset) offset s (fun s => !s.c) (s.c = false) rfl rfl (Bool.not_eq_true' _).to_iff
  · exact exec_branch (.bcs offset) offset s (fun s => s.c) (s.c = true) rfl rfl .rfl
  · exact exec_branch (.bne offset) offset s (fun s => !s.z) (s.z = false) rfl rfl (Bool.not_eq_true' _).to_iff
  · exact exec_branch (.beq offset) offset s (fun s => s.z) (s.z = true) rfl rfl .rfl

/-- Settles O38: 4C is the one row of JMP and 6C has none; the effect is `exec_jmp`. -/
theorem jumpSetsTheProgramCounter : Obligations.JumpSetsTheProgramCounter :=
  ⟨decodesExactly_of_table _ _ (by decide) (by decide), by decide, exec_jmp⟩

end

section
/-! SUPPORT. The family 45_compare.md: the comparisons (ComparisonsSetFlagsOnly), proved once for every register. -/

namespace Sys2Proof.Machine

/-! ## The discarded difference -/

/-- Bit 7 of a byte difference, from the integer difference (R17, R115). -/
theorem msb_sub (r m : Byte) : (r - m).msb = decide (128 ≤ ((r.toNat : Int) - m.toNat) % 256) := by
  have difference : ((r - m).toNat : Int) = ((r.toNat : Int) - m.toNat) % 256 := by
    rw [← truncate8_sub, toNat_truncate8]
  rw [← difference, msb_eq_isNegative, isNegative]
  exact decide_eq_decide.mpr Nat.ofNat_le_cast.symm

theorem sub_beq_zero (r m : Byte) : (r - m == 0#8) = decide (r = m) :=
  decide_eq_decide.mpr sub_eq_zero

/-! ## A comparison -/

/-- A comparison reads its operand and sets C, N and Z from the register, which the resolution has not changed (R115 to
R117). -/
theorem exec_compare (r : Reg) (i : Instr) (s : State) (h : bodyOf i = some (compare r)) :
    ∃ ea m s2, ReadsOperand i s ea m s2 ∧
      exec i s = .next ((s2.putC (decide (m.toNat ≤ (s.reg r).toNat))).putNZ
        (decide (128 ≤ (((s.reg r).toNat : Int) - m.toNat) % 256)) (decide (s.reg r = m))) := by
  obtain ⟨ea, s1, hr, he⟩ := exec_resolved i s (compare r) h
  have register : s1.reg r = s.reg r := by
    rw [← resolve_reg r i.operand s, hr]
  refine ⟨ea, (memRead ea s1).1, (memRead ea s1).2, ⟨s1, hr, rfl⟩, ?_⟩
  rw [he, compare_eq, register, msb_sub, sub_beq_zero]

end Sys2Proof.Machine

open Sys2Proof Sys2Proof.Machine

/-- Settles O43: the table has exactly the listed rows, and every form of a comparison is `exec_compare`. -/
theorem comparisonsSetFlagsOnly : Obligations.ComparisonsSetFlagsOnly := by
  refine ⟨decodesExactly_of_table _ _ (by decide) (by decide), decodesExactly_of_table _ _ (by decide) (by decide),
    decodesExactly_of_table _ _ (by decide) (by decide), ?_, ?_, ?_⟩
  · exact fun i s hm => exec_compare .a i s (by rw [bodyOf, hm])
  · exact fun i s hm => exec_compare .x i s (by rw [bodyOf, hm])
  · exact fun i s hm => exec_compare .y i s (by rw [bodyOf, hm])

end

section
/-! SUPPORT. The family 46_logic_shift.md: AND (AndMasksTheAccumulator) and BIT (BitTestsWithoutWriting), both a function of
A and the operand, and LSR (ShiftRightHalvesItsOperand) on A and on memory. -/

namespace Sys2Proof.Machine

/-! ## A and the operand -/

/-- A body that reads its operand and computes `f` of A and the byte read, run at the instruction's effective address: the
A it sees is the one from before the resolution (R72, R118, R119). -/
theorem exec_accumulatorWithOperand (f : Byte → Byte → State → State) (i : Instr) (s : State)
    (body : Word → State → State) (h : bodyOf i = some body)
    (hb : ∀ ea u, body ea u = f u.a (memRead ea u).1 (memRead ea u).2) :
    ∃ ea m s2, ReadsOperand i s ea m s2 ∧ exec i s = .next (f s.a m s2) := by
  obtain ⟨ea, s1, hr, he⟩ := exec_resolved i s body h
  have accumulator : s1.a = s.a := by
    rw [← resolve_a i.operand s, hr]
  refine ⟨ea, (memRead ea s1).1, (memRead ea s1).2, ⟨s1, hr, rfl⟩, ?_⟩
  rw [he, hb, accumulator]

theorem testBit_toNat_and (a m : Byte) (k : Nat) :
    Nat.testBit (a &&& m).toNat k = (Nat.testBit a.toNat k && Nat.testBit m.toNat k) := by
  rw [BitVec.toNat_and, Nat.testBit_and]

/-- BIT's Z, bit by bit: the mask is 0 exactly when A and the byte share no set bit (R119). -/
theorem and_beq_zero (a m : Byte) :
    (a &&& m == 0#8) = decide (∀ k : Fin 8, ¬(Nat.testBit a.toNat k = true ∧ Nat.testBit m.toNat k = true)) := by
  have unshared (k : Fin 8) : (a &&& m).getLsbD k = false ↔
      ¬(Nat.testBit a.toNat k = true ∧ Nat.testBit m.toNat k = true) := by
    rw [BitVec.getLsbD, testBit_toNat_and, ← Bool.and_eq_true, Bool.not_eq_true]
  have zero : a &&& m = 0#8 ↔ ∀ k : Fin 8, (a &&& m).getLsbD k = false := by
    simp only [BitVec.eq_of_getLsbD_eq_iff, BitVec.getLsbD_zero, Fin.forall_iff]
  exact decide_eq_decide.mpr (zero.trans (forall_congr' unshared))

/-- BIT's two flags in the terms of the statement (R119). -/
theorem bitTestFlags_eq (a m : Byte) (s : State) :
    bitTestFlags a m s = s.putNZ (isNegative m)
      (decide (∀ k : Fin 8, ¬(Nat.testBit a.toNat k = true ∧ Nat.testBit m.toNat k = true))) := by
  rw [bitTestFlags, msb_eq_isNegative, and_beq_zero]

/-! ## The shift to the right -/

theorem shiftCarry_eq (v : Byte) : shiftCarry v = decide (v.toNat % 2 = 1) :=
  Nat.testBit_zero v.toNat

/-- LSR's result is the half, rounded down, and needs no truncation (R120). -/
theorem toNat_truncate8_shiftResult (v : Byte) : (truncate8 (shiftResult v)).toNat = v.toNat / 2 := by
  rw [truncate8_shiftResult, BitVec.toNat_ushiftRight, Nat.shiftRight_eq_div_pow, pow_one]

/-- Half of a byte is below 128, so LSR always clears N (R120). -/
theorem isNegative_shiftResult (v : Byte) : isNegative (truncate8 (shiftResult v)) = false := by
  have := v.isLt
  rw [isNegative, toNat_truncate8_shiftResult]
  exact decide_eq_false (by omega)

theorem isZero_shiftResult (v : Byte) : isZero (truncate8 (shiftResult v)) = decide (v.toNat / 2 = 0) := by
  rw [isZero, toNat_truncate8_shiftResult]

/-- LSR A: the half in A, C the bit shifted out, N clear and Z from the half (R120). -/
theorem shiftRightAccumulator_flags (s : State) :
    shiftRightAccumulator s =
      ((s.putC (decide (s.a.toNat % 2 = 1))).putNZ false (decide (s.a.toNat / 2 = 0))).putReg .a
        (truncate8 (shiftResult s.a)) := by
  rw [shiftRightAccumulator, setReg_eq, msb_eq_isNegative, beq_zero_eq_isZero, isNegative_shiftResult,
    isZero_shiftResult, setCarryIf, shiftCarry_eq]

/-- All that LSR on memory does once it has read `m`: the three flags, one cell, and the record of pixel calls (R46,
R120). -/
theorem storeResult_shift_frame (m : Byte) (ea : Word) (u : State) :
    storeResult (shiftResult m) ea (setCarryIf (shiftCarry m) u) =
      { u with
        mem := (storeResult (shiftResult m) ea (setCarryIf (shiftCarry m) u)).mem,
        c := decide (m.toNat % 2 = 1), n := false, z := decide (m.toNat / 2 = 0),
        calls := callsAfterWrite ea (truncate8 (shiftResult m)) u.calls } := by
  rw [← shiftCarry_eq, ← isNegative_shiftResult m, ← isZero_shiftResult]
  exact storeResult_frame (shiftResult m) ea (setCarryIf (shiftCarry m) u)

/-- LSR in a memory form is one read and the half stored at the same address (R57, R120). -/
theorem exec_lsr_memory (i : Instr) (s : State) (h : bodyOf i = some shiftRightMemory) :
    ∃ ea m s2 r t, ReadsOperand i s ea m s2 ∧ r.toNat = m.toNat / 2 ∧ exec i s = .next t ∧ OnlyCellWritten ea r s t ∧
      t = { s2 with
        mem := t.mem, c := decide (m.toNat % 2 = 1), n := false, z := decide (m.toNat / 2 = 0),
        calls := callsAfterWrite ea r s2.calls } := by
  obtain ⟨ea, s1, hr, he⟩ := exec_resolved i s shiftRightMemory h
  have reads : ReadsOperand i s ea (memRead ea s1).1 (memRead ea s1).2 := ⟨s1, hr, rfl⟩
  exact ⟨ea, _, _, _, _, reads, toNat_truncate8_shiftResult _, he, storeResult_onlyCellWritten _ ea reads.mem_eq,
    storeResult_shift_frame _ ea _⟩

theorem bodyOf_lsr_memory (i : Instr) (hm : i.mnemonic = .lsr) (ho : i.operand ≠ .implicit) :
    bodyOf i = some shiftRightMemory := by
  simp only [bodyOf, hm, if_neg ho]

end Sys2Proof.Machine

open Sys2Proof Sys2Proof.Machine

/-- Settles O44: the table has exactly the listed rows, and every form of AND is `exec_accumulatorWithOperand` at the write
of the mask to A. -/
theorem andMasksTheAccumulator : Obligations.AndMasksTheAccumulator := by
  refine ⟨decodesExactly_of_table _ _ (by decide) (by decide), fun i s hm => ?_⟩
  obtain ⟨ea, m, s2, reads, he⟩ := exec_accumulatorWithOperand (fun a m u => setReg .a (a &&& m).toNat u) i s
    andAccumulator (by rw [bodyOf, hm]) fun _ _ => rfl
  rw [setReg_toNat] at he
  exact ⟨ea, m, s2, s.a &&& m, reads, fun k _ => testBit_toNat_and s.a m k, he⟩

/-- Settles O45: the table has exactly the listed rows, and both forms of BIT are `exec_accumulatorWithOperand` at BIT's
flags. -/
theorem bitTestsWithoutWriting : Obligations.BitTestsWithoutWriting := by
  refine ⟨decodesExactly_of_table _ _ (by decide) (by decide), fun i s hm => ?_⟩
  obtain ⟨ea, m, s2, reads, he⟩ := exec_accumulatorWithOperand bitTestFlags i s bitTest (by rw [bodyOf, hm]) fun _ _ => rfl
  rw [bitTestFlags_eq] at he
  exact ⟨ea, m, s2, reads, he⟩

/-- Settles O46: the table has exactly the listed rows, LSR A is `shiftRightAccumulator_flags`, and every form with an
effective address is `exec_lsr_memory`. -/
theorem shiftRightHalvesItsOperand : Obligations.ShiftRightHalvesItsOperand := by
  refine ⟨decodesExactly_of_table _ _ (by decide) (by decide), fun s => ?_, fun i s hm hmode => ?_⟩
  · exact ⟨truncate8 (shiftResult s.a), toNat_truncate8_shiftResult s.a,
      congrArg Host.Outcome.next (shiftRightAccumulator_flags s)⟩
  · have memory : i.operand ≠ .implicit := fun implicit => hmode (congrArg Operand.mode implicit)
    exact exec_lsr_memory i s (bodyOf_lsr_memory i hm memory)

end

section
/-! SUPPORT. The families 47_arith_carry.md, 48_system.md and 60_exceptions.md: ADC and SBC (AddWithCarryIsExact,
SubtractWithCarryIsExact), proved once for whatever sum and carry a form computes, CLC and SEC
(CarryOperationsWriteOnlyCarry), NOP and BRK (NopChangesNothing, BrkHaltsNormally), and what ends a run
(OnlyBrkAndDecodeErrorsHalt, UndecodedOpcodeHaltsTheCore, HaltedIsAbsorbing); and the two closed facts about reset
(ResetMeetsTheInvariant) and the decoder (SpecWordsDecodeToTheirInstructions). -/

namespace Sys2Proof.Machine

/-! ## Arithmetic with carry -/

/-- A body that reads its operand, computes `total` of A, the byte read and C, and writes the carry and the truncated total
to C and A: the A and C it sees are those from before the resolution (R72, R122, R123). -/
theorem exec_arithmetic (total : Byte → Byte → Bool → Int) (carry : Int → Bool) (i : Instr) (s : State)
    (body : Word → State → State) (h : bodyOf i = some body)
    (hb : ∀ ea u, body ea u =
      setReg .a (total u.a (memRead ea u).1 u.c) ((memRead ea u).2.putC (carry (total u.a (memRead ea u).1 u.c)))) :
    ∃ ea m s2, ReadsOperand i s ea m s2 ∧
      exec i s = .next { s2 with
        a := truncate8 (total s.a m s.c), c := carry (total s.a m s.c),
        n := isNegative (truncate8 (total s.a m s.c)), z := isZero (truncate8 (total s.a m s.c)) } := by
  obtain ⟨ea, s1, hr, he⟩ := exec_resolved i s body h
  have accumulator : s1.a = s.a := by
    rw [← resolve_a i.operand s, hr]
  have carryIn : s1.c = s.c := by
    rw [← resolve_c i.operand s, hr]
  refine ⟨ea, (memRead ea s1).1, (memRead ea s1).2, ⟨s1, hr, rfl⟩, ?_⟩
  rw [he, hb, accumulator, carryIn, setReg_eq, msb_eq_isNegative, beq_zero_eq_isZero]
  rfl

theorem flagInt_eq_toNat (c : Bool) : flagInt c = c.toNat := by
  cases c <;> rfl

/-- ADC's carry out, over natural numbers (R122). -/
theorem carry_adcSum (a m : Byte) (c : Bool) :
    decide (255 < adcSum a m c) = decide (255 < a.toNat + m.toNat + c.toNat) := by
  rw [adcSum, flagInt_eq_toNat]
  exact decide_eq_decide.mpr (by omega)

theorem sbcDifference_eq (a m : Byte) (c : Bool) :
    sbcDifference a m c = (a.toNat : Int) - m.toNat - (1 - c.toNat) := by
  rw [sbcDifference, flagInt_eq_toNat]

/-- SBC borrows nothing exactly when adding the complement of the operand carries out (R123). -/
theorem difference_nonneg_iff (a m : Byte) (c : Bool) :
    (0 : Int) ≤ (a.toNat : Int) - m.toNat - (1 - c.toNat) ↔ 255 < a.toNat + (255 - m.toNat) + c.toNat := by
  have := m.isLt
  omega

/-! ## Instructions of one byte -/

/-- A step from a plain `pc` that holds the opcode of an Implicit instruction runs it, with `pc` one further (R37, R73,
R82). -/
theorem step_implicit (i : Instr) (s : State) (ho : i.operand = .implicit) (hr : s.run = .running)
    (hp : plainAddress s.pc) (hop : baseRead s.pc s = i.opcode) :
    step s = exec i { s with pc := s.pc + 1#16, started := true } := by
  have oneByte : i.length = 1 := by
    rw [Instr.length, ho]
    rfl
  have decoded : decode (bytesAt s.pc 3 s) = .ok (i, bytesAt (s.pc + 1#16) 2 s) := by
    rw [decode_eq_ok_iff, bytesAt, hop, encode, ho]
    rfl
  have plain : ∀ k, k < i.length → plainAddress (s.pc + BitVec.ofNat 16 k) := by
    intro k hk
    obtain rfl : k = 0 := by omega
    simpa using hp
  have executed := stepRunsTheDecodedInstruction s i _ hr decoded (encoding_statement i).1 plain
  rwa [oneByte] at executed

/-- 0x00 is the one opcode byte of BRK (R126). -/
theorem decodesExactly_brk : DecodesExactly .brk [(0x00#8, .implicit)] :=
  decodesExactly_of_table _ _ (by decide) (by decide)

/-! ## The fetch that ends in a decode error -/

/-- A read neither sees nor changes the mark that a `STEP` has run. -/
theorem memRead_markStarted (a : Word) (s : State) :
    memRead a s.markStarted = ((memRead a s).1, (memRead a s).2.markStarted) := by
  unfold memRead
  split_ifs <;> rfl

end Sys2Proof.Machine

open Sys2Proof Sys2Proof.Machine

/-- Settles O47: the table has exactly the listed rows, and every form of ADC is `exec_arithmetic` at the sum. -/
theorem addWithCarryIsExact : Obligations.AddWithCarryIsExact := by
  refine ⟨decodesExactly_of_table _ _ (by decide) (by decide), fun i s hm => ?_⟩
  obtain ⟨ea, m, s2, reads, he⟩ := exec_arithmetic adcSum (fun t => decide (255 < t)) i s addWithCarry
    (by rw [bodyOf, hm]) addWithCarry_eq
  rw [carry_adcSum] at he
  exact ⟨ea, m, s2, _, reads, toNat_truncate8_adcSum s.a m s.c, he⟩

/-- Settles O48: the table has exactly the listed rows, and every form of SBC is `exec_arithmetic` at the difference. -/
theorem subtractWithCarryIsExact : Obligations.SubtractWithCarryIsExact := by
  refine ⟨decodesExactly_of_table _ _ (by decide) (by decide), fun i s hm => ?_⟩
  obtain ⟨ea, m, s2, reads, he⟩ := exec_arithmetic sbcDifference (fun t => decide (0 ≤ t)) i s subtractWithCarry
    (by rw [bodyOf, hm]) subtractWithCarry_eq
  have difference := toNat_truncate8 (sbcDifference s.a m s.c)
  have complement := toNat_truncate8_sbcDifference s.a m s.c
  rw [sbcDifference_eq] at he difference complement
  exact ⟨ea, m, s2, _, reads, difference, complement, difference_nonneg_iff s.a m s.c, he⟩

/-- Settles O49: each of the two has one row, and its meaning writes C alone. -/
theorem carryOperationsWriteOnlyCarry : Obligations.CarryOperationsWriteOnlyCarry :=
  ⟨decodesExactly_of_table _ _ (by decide) (by decide), decodesExactly_of_table _ _ (by decide) (by decide),
    fun _ => ⟨rfl, rfl⟩⟩

/-- Settles O50: EA is the one row of NOP, and the step that runs it is `step_implicit`. -/
theorem nopChangesNothing : Obligations.NopChangesNothing :=
  ⟨decodesExactly_of_table _ _ (by decide) (by decide), fun _ => rfl,
    fun s hr hp hop => step_implicit .nop s rfl hr hp hop⟩

/-- Settles O51: 00 is the one row of BRK, and the step that runs it is `step_implicit`. -/
theorem brkHaltsNormally : Obligations.BrkHaltsNormally :=
  ⟨decodesExactly_brk, fun _ => rfl, fun s hr hp hop => step_implicit .brk s rfl hr hp hop⟩

/-- Settles O14: a step from a Running state is a decode error or one instruction, and of these only BRK, whose one opcode
byte is 0x00, changes the run state. -/
theorem onlyBrkAndDecodeErrorsHalt : Obligations.OnlyBrkAndDecodeErrorsHalt := by
  intro s t hr h
  obtain ⟨r, halted, -⟩ | ⟨-, hd, rfl⟩ | ⟨_, i, -, hd, rfl, he⟩ := step_cases s t h
  · cases hr.symm.trans halted
  · exact .inr (.inr ⟨hd, rfl⟩)
  · obtain ⟨-, run, -⟩ := stackPointerAndRunStateFrame i _ t he
    by_cases hm : i.mnemonic = .brk
    · rw [if_pos hm] at run
      rw [Instr.descriptor, hm, decodesExactly_brk, List.mem_singleton, Prod.mk.injEq] at hd
      obtain ⟨opcode, -⟩ := hd
      exact .inr (.inl ⟨opcode, run⟩)
    · rw [if_neg hm, fetchBytes_run, fetchNext_run, State.markStarted_run, hr] at run
      exact .inl run

/-- Settles O11: the step is one fetch and the halt, and a fetch changes only `pc` and the record of calls. -/
theorem undecodedOpcodeHaltsTheCore : Obligations.UndecodedOpcodeHaltsTheCore := by
  intro s hr hd
  have recorded : (fetchNext s.markStarted).2.calls = (memRead s.pc s).2.calls := by
    rw [fetchNext, State.putPc_calls, State.markStarted_pc, memRead_markStarted, State.markStarted_calls]
  refine ⟨_, step_undecoded s hr hd, rfl, fetchNext_pc s.markStarted, ?_⟩
  simp [raiseDecodeError, recorded]

/-- Settles O2: at reset no cell is listed, and the core is Running. -/
theorem resetMeetsTheInvariant : Obligations.ResetMeetsTheInvariant :=
  ⟨rfl, fun halted => Bool.noConfusion halted⟩

/-- Settles O6: the decoder runs on each of the literal byte strings. -/
theorem specWordsDecodeToTheirInstructions : Obligations.SpecWordsDecodeToTheirInstructions :=
  ⟨rfl, rfl, rfl, rfl, rfl, rfl, rfl, rfl, rfl, rfl, rfl, rfl, rfl⟩

/-- Settles O12: a step looks at the run state first. -/
theorem haltedIsAbsorbing : Obligations.HaltedIsAbsorbing :=
  step_halted

end
